-- ==== Sys2Proof/Word.lean ====
section
/-! DEFINITION. The data types every other file uses: a byte, a bus address, and the exact
rationals in which the spec states every analog quantity (00_scope.md rule R3, section 6). -/

namespace Sys2Proof

/-- One byte of bus data, bit 0 the least significant (00_scope.md section 6.1). -/
abbrev Byte := BitVec 8

/-- A bus address as the CPU drives it, 16 bits (30_encoding.md rule R61). -/
abbrev Addr := BitVec 16

/-- Volts, amperes, ohms and seconds are exact rationals (00_scope.md rule R3). -/
abbrev Volts := Rat
/-- Amperes, an exact rational. -/
abbrev Amps := Rat
/-- Ohms, an exact rational. -/
abbrev Ohms := Rat
/-- Seconds of virtual time, an exact rational (00_scope.md section 6.2). -/
abbrev Seconds := Rat

end Sys2Proof
end

