-- ==== Sys2Proof/Config.lean ====
section
/-! DEFINITION. What is fixed for one machine: the named constants the source fixes
(00_scope.md section 5.1), the record of the OPEN parameters (00_scope.md section 5.2) with
their constraints, the example configuration EX of 95_test_vectors.md section 0, and the free
values (93_implementation_defined.md), each an opaque constant without a body. -/

namespace Sys2Proof

/-! ### Names -/

/-- The two contours (00_scope.md section 5.1, `CONTOURS`). -/
inductive Contour
  | filter
  | loudness
  deriving DecidableEq, Repr, Inhabited

/-- One value for each contour ("identical logic parameterized by role", 41_envelope.md). -/
structure PerContour (α : Type) where
  filter : α
  loudness : α
  deriving DecidableEq, Repr, Inhabited

/-- The value of contour `c`. -/
def PerContour.get {α : Type} (p : PerContour α) : Contour → α
  | .filter => p.filter
  | .loudness => p.loudness

/-- `p` with the value of contour `c` replaced; the other contour keeps its own (rule R12). -/
def PerContour.set {α : Type} (p : PerContour α) (c : Contour) (v : α) : PerContour α :=
  match c with
  | .filter => ⟨v, p.loudness⟩
  | .loudness => ⟨p.filter, v⟩

/-- The two column read-back groups (00_scope.md section 5.1, `COL_GROUPS`). -/
inductive ColGroup
  | a
  | b
  deriving DecidableEq, Repr, Inhabited

/-- The two displays (45_dispatcher.md rules R195, R197). -/
inductive Display
  | edit
  | program
  deriving DecidableEq, Repr, Inhabited

/-- The encoder's last direction (10_state.md rule R19). -/
inductive EncDir
  | inc
  | dec
  deriving DecidableEq, Repr, Inhabited

/-- The two address spaces of the CPU (20_memory.md rule R40). -/
inductive Space
  | io
  | mem
  deriving DecidableEq, Repr, Inhabited

/-- The direction of a bus transaction, seen from the CPU (30_encoding.md rule R61). -/
inductive Dir
  | read
  | write
  deriving DecidableEq, Repr, Inhabited

/-- An id of the solver's, kept symbolic by the spec (00_scope.md section 5.2).
DESIGN CHOICE (log entry 23): ids are natural numbers; safe. -/
abbrev SolverId := Nat

/-- What `memDecode` may answer (20_memory.md rules R42, R44). -/
inductive Target
  | editDisplay
  | outLatch (k : Nat)
  | keyboard
  | rowLatch
  | buttons (g : ColGroup)
  | programDisplay
  | encoder
  | nvram (off : Nat)
  | unmapped
  deriving DecidableEq, Repr, Inhabited

/-- One address of the `MEM` map in one direction.
DESIGN CHOICE (log entry 10): the map is a table with one row per address and direction; safe. -/
structure MapEntry where
  addr : Addr
  dir : Dir
  target : Target
  deriving DecidableEq, Repr, Inhabited

/-- What a changed write to a channel dispatches to (30_encoding.md rule R67). -/
inductive ChanClass
  | egRate (c : Contour)
  | egLevel (c : Contour)
  | lfoRate
  | plain
  deriving DecidableEq, Repr, Inhabited

/-- The signals a status bit may carry (30_encoding.md rule R70). -/
inductive Signal
  | kbdCmp
  | peaked (c : Contour)
  | lfoPhase
  | octaveHi
  | extTrigger
  | zero
  | one
  deriving DecidableEq, Repr, Inhabited

/-- One bit of the status byte: its signal, and whether it is complemented. -/
structure StatusBit where
  signal : Signal
  inverted : Bool
  deriving DecidableEq, Repr, Inhabited

/-- Names of indicator LEDs: the LFO's (42_lfo.md rule R138), the octave latch's two
(44_panel.md rule R177), and those the output latches drive.
DESIGN CHOICE (log entry 22): the latter are numbered; safe. -/
inductive LedName
  | lfo
  | octaveHi
  | octaveLo
  | panel (n : Nat)
  deriving DecidableEq, Repr, Inhabited

/-- "named analog-routing indicator flags (sync, mod-routing, waveform selects)"
(45_dispatcher.md rule R198). -/
inductive FlagName
  | sync
  | modRouting
  | waveformSelect (n : Nat)
  deriving DecidableEq, Repr, Inhabited

/-- What one output-latch bit drives (45_dispatcher.md rule R198, `OUT_BITS`). -/
inductive OutBit
  | led (name : LedName) (inverted : Bool)
  | flag (name : FlagName) (inverted : Bool)
  | unused
  deriving DecidableEq, Repr, Inhabited

/-! ### Constants fixed by the source (00_scope.md section 5.1; literals unaudited, U14) -/

namespace Config

/-- `CV_CHANNELS` -/
abbrev cvChannels : Nat := 24
/-- `CV_RANGE` -/
def cvRange : Nat := 32
/-- `CV_FULL_SCALE`, volts -/
def cvFullScale : Nat := 10
/-- `CV_DIVISOR` -/
def cvDivisor : Nat := 255
/-- `WS_SETTLE`, CPU cycles -/
def wsSettle : Nat := 8
/-- `WS_HOLD`, CPU cycles -/
def wsHold : Nat := 24
/-- `OTA_GM`, 19.2 = 96/5 exactly (41_envelope.md rule R113) -/
def otaGm : Rat := 96 / 5
/-- `PEAK_LOOKAHEAD`, seconds -/
def peakLookahead : Seconds := 1 / 1000
/-- `ROW_BITS` -/
abbrev rowBits : Nat := 6
/-- The mask of the `COL_BITS` = 6 connected column bits (44_panel.md rule R172) -/
def colMask : Byte := 0x3F
/-- `COL_FLOAT` -/
def colFloat : Byte := 0xC0
/-- `KBD_GROUPS` -/
abbrev kbdGroups : Nat := 4
/-- `ENC_POSITIONS` -/
abbrev encPositions : Nat := 240
/-- `ENC_GUARD` -/
def encGuard : Nat := 10
/-- `SEG_ENTRIES` -/
abbrev segEntries : Nat := 16
/-- `TRIMMERS` -/
abbrev trimmers : Nat := 3
/-- `OCTAVE_RESET`: HIGH -/
def octaveReset : Bool := true
/-- `CV_RESET`, the raw byte of every channel at power-on -/
def cvReset : Byte := 0x00

end Config

/-- The OPEN parameters of 00_scope.md section 5.2: one record, fixed at construction (U8). -/
structure Config where
  /-- `CH_CUTOFF_COARSE` -/
  chCutoffCoarse : Fin Config.cvChannels
  /-- `CH_MOD_RATE` -/
  chModRate : Fin Config.cvChannels
  /-- `CH_KEYBOARD_APPROX` -/
  chKeyboardApprox : Fin Config.cvChannels
  /-- `CH_FILTER_CONTOUR_RATE`, `CH_LOUDNESS_CONTOUR_RATE` -/
  chContourRate : PerContour (Fin Config.cvChannels)
  /-- `CH_FILTER_CONTOUR_LEVEL`, `CH_LOUDNESS_CONTOUR_LEVEL` -/
  chContourLevel : PerContour (Fin Config.cvChannels)
  /-- The class of the channels rule R67 does not fix ("`PLAIN` or OPEN elsewhere"). -/
  otherClass : Vector ChanClass Config.cvChannels
  /-- `SOLVER_IN_RATE[c]` -/
  solverInRate : PerContour SolverId
  /-- `SOLVER_IN_LFO_RATE` -/
  solverInLfoRate : SolverId
  /-- `SOLVER_OUT_RATE[c]` -/
  solverOutRate : PerContour SolverId
  /-- `SOLVER_OUT_LFO_RATE` -/
  solverOutLfoRate : SolverId
  /-- `SOLVER_RC[c]` -/
  solverRc : PerContour SolverId
  /-- `EG_DIV_PLUS[c]` -/
  egDivPlus : PerContour Rat
  /-- `EG_DIV_MINUS[c]` -/
  egDivMinus : PerContour Rat
  /-- `PEAK_V_RISE[c]` -/
  peakVRise : PerContour Volts
  /-- `PEAK_V_FALL[c]` -/
  peakVFall : PerContour Volts
  /-- `LFO_V_PEAK` -/
  lfoVPeak : Volts
  /-- `LFO_C`, farads -/
  lfoC : Rat
  /-- `KBD_GROUP_WIDTH[g]` -/
  kbdGroupWidth : Vector Nat Config.kbdGroups
  /-- `KBD_TOTAL_KEYS` -/
  kbdTotalKeys : Nat
  /-- `KBD_R_A` -/
  kbdRA : Ohms
  /-- `KBD_R_KEY` -/
  kbdRKey : Ohms
  /-- `KBD_VREF` -/
  kbdVref : Volts
  /-- `KBD_DIV2` -/
  kbdDiv2 : Rat
  /-- `STATUS_MAP` -/
  statusMap : Vector StatusBit 8
  /-- The raw octave readings for which `OCT_SET` holds (log entry 11). -/
  octSetReadings : List Byte
  /-- The raw octave readings for which `OCT_RESET` holds (log entry 11). -/
  octResetReadings : List Byte
  /-- `ENC_READ_INC` -/
  encReadInc : Byte
  /-- `ENC_READ_DEC` -/
  encReadDec : Byte
  /-- The table behind `memDecode` (log entry 10). -/
  memMap : List MapEntry
  /-- `SEG_TABLE` -/
  segTable : Vector Byte Config.segEntries
  /-- `OUT_BITS`, one row of eight bits for each output latch; its length is `OUT_LATCH_COUNT`. -/
  outBits : List (Vector OutBit 8)
  /-- `CPU_CLOCK_HZ`, used by no rule (70_reset_and_hazards.md rule R252). -/
  cpuClockHz : Rat
  deriving DecidableEq, Repr, Inhabited

namespace Config

/-- `OUT_LATCH_COUNT` -/
def outLatchCount (cfg : Config) : Nat := cfg.outBits.length

/-- The seven channel numbers the spec names (30_encoding.md rule R66). -/
def namedChannels (cfg : Config) : List (Fin cvChannels) :=
  [cfg.chCutoffCoarse, cfg.chModRate, cfg.chKeyboardApprox, cfg.chContourRate.filter,
    cfg.chContourRate.loudness, cfg.chContourLevel.filter, cfg.chContourLevel.loudness]

/-- The direction in which a target is decoded (20_memory.md rule R42), and, for an output latch,
that its index is in range (10_state.md rule R22). -/
def targetAllows (cfg : Config) (dir : Dir) : Target → Bool
  | .editDisplay | .rowLatch | .programDisplay => dir == .write
  | .outLatch k => dir == .write && decide (k < cfg.outLatchCount)
  | .keyboard | .buttons _ | .encoder => dir == .read
  | .nvram _ => true
  | .unmapped => true

/-- The constraints of 00_scope.md section 5.2 on the OPEN parameters. -/
def wf (cfg : Config) : Bool :=
  decide cfg.namedChannels.Nodup
    && decide [cfg.solverOutRate.filter, cfg.solverOutRate.loudness, cfg.solverOutLfoRate].Nodup
    && decide (0 < cfg.egDivMinus.filter) && decide (0 < cfg.egDivMinus.loudness)
    && decide (cfg.peakVFall.filter < cfg.peakVRise.filter)
    && decide (cfg.peakVFall.loudness < cfg.peakVRise.loudness)
    && decide (0 < cfg.lfoVPeak) && decide (0 < cfg.lfoC)
    && cfg.kbdGroupWidth.toList.all (fun w => decide (1 ≤ w))
    && decide (cfg.kbdGroupWidth.toList.sum ≤ cfg.kbdTotalKeys)
    && decide (0 ≤ cfg.kbdRA) && decide (0 < cfg.kbdRKey)
    && decide (0 < cfg.kbdRA + ((cfg.kbdTotalKeys : Rat) - 1) * cfg.kbdRKey)
    && decide (0 < cfg.kbdDiv2) && decide (cfg.kbdDiv2 ≤ 1)
    && decide (cfg.encReadInc ≠ cfg.encReadDec)
    && cfg.memMap.all (fun e => cfg.targetAllows e.dir e.target)
    && decide (0 < cfg.cpuClockHz)

/-! ### Free values (93_implementation_defined.md): no body, so no proof can see what they are -/

/-- The byte an undecoded read returns (U1; 30_encoding.md rule R78): a fresh draw per read,
indexed by the step's draw number. -/
opaque freeByte : Nat → Byte

/-- The solver's answer to a voltage query to which the state lists none (U4; 10_state.md rule
R13), by draw number, element and query time. -/
opaque freeVolts : Nat → SolverId → Seconds → Volts

/-- The launch value of `rowLatch` (U2; 70_reset_and_hazards.md rule R240), by draw number. -/
opaque freeRowLatch : Nat → BitVec rowBits

/-- The launch value of `encDir` (U2), by draw number. -/
opaque freeEncDir : Nat → EncDir

/-- The launch value of a display register (U2), by draw number. -/
opaque freeDisplay : Nat → Display → Byte

/-- The launch value of output latch `k` (U2), by draw number. -/
opaque freeOutLatch : Nat → Nat → Byte

/-- What the battery kept at an offset nothing has written (U7; 45_dispatcher.md rule R199). -/
opaque batteryByte : Nat → Byte

/-- The parameters of the board at hand (U8): the spec gives none of them. -/
opaque unknown : Config

/-! ### The example configuration EX and the board -/

/-- The readings in which bit `i` is 1, EX's `OCT_SET` (bit 0) and `OCT_RESET` (bit 1). -/
def readingsWithBit (i : Nat) : List Byte :=
  ((List.range 256).map (BitVec.ofNat 8)).filter (fun r => r.getLsbD i)

/-- Configuration EX of 95_test_vectors.md section 0: invented for the vectors, not the hardware's. -/
def ex : Config where
  chCutoffCoarse := 0
  chModRate := 12
  chKeyboardApprox := 5
  chContourRate := ⟨8, 10⟩
  chContourLevel := ⟨9, 11⟩
  otherClass := Vector.replicate cvChannels .plain
  solverInRate := ⟨1, 2⟩
  solverInLfoRate := 3
  solverOutRate := ⟨4, 5⟩
  solverOutLfoRate := 6
  solverRc := ⟨7, 8⟩
  egDivPlus := ⟨1 / 20, 1 / 20⟩
  egDivMinus := ⟨1 / 10, 1 / 10⟩
  peakVRise := ⟨5, 5⟩
  peakVFall := ⟨9 / 2, 9 / 2⟩
  lfoVPeak := 5 / 2
  lfoC := 1 / 1000000
  kbdGroupWidth := #v[12, 12, 12, 12]
  kbdTotalKeys := 48
  kbdRA := 1000
  kbdRKey := 100
  kbdVref := 10
  kbdDiv2 := 1 / 2
  statusMap := #v[⟨.kbdCmp, false⟩, ⟨.peaked .filter, false⟩, ⟨.peaked .loudness, false⟩,
    ⟨.lfoPhase, false⟩, ⟨.octaveHi, false⟩, ⟨.extTrigger, false⟩, ⟨.zero, false⟩, ⟨.one, false⟩]
  octSetReadings := readingsWithBit 0
  octResetReadings := readingsWithBit 1
  encReadInc := 0x01
  encReadDec := 0x00
  memMap := [⟨0x4000, .write, .editDisplay⟩, ⟨0x4001, .write, .programDisplay⟩,
    ⟨0x4002, .write, .outLatch 0⟩, ⟨0x4003, .write, .rowLatch⟩, ⟨0x4004, .read, .buttons .a⟩,
    ⟨0x4005, .read, .buttons .b⟩, ⟨0x4006, .read, .keyboard⟩, ⟨0x4007, .read, .encoder⟩]
  segTable := #v[0x3F, 0x06, 0x5B, 0x4F, 0x66, 0x6D, 0x7D, 0x07, 0x7F, 0x6F, 0x77, 0x7C, 0x39,
    0x5E, 0x79, 0x71]
  outBits := [#v[.flag .sync false, .led (.panel 0) true, .unused, .unused, .unused, .unused,
    .unused, .unused]]
  cpuClockHz := 1

/-- The board's configuration: the unknown record where it meets the constraints of section 5.2,
which the spec makes part of the parameters' type. Nothing is known of it but that it meets them
(log entry 2): any record that does could be the board's. -/
def board : Config := if unknown.wf then unknown else ex

end Config

end Sys2Proof
end

