-- ==== Sys2Proof/Syntax.lean ====
section
/-! DEFINITION. The 18 operations of the block (30_encoding.md rule R60, opcode_table.json), one
constructor each, and the forms in which they reach it: the bus transaction (rule R61), the event
payloads (rule R65), the queue entries and the timer's firing. -/

namespace Sys2Proof

/-- An encoder position, 0..239 (30_encoding.md rule R76). A value outside that range is outside
the input service's contract, and the type leaves it out (U5; log entry 19). -/
abbrev EncPos := Fin Config.encPositions

/-- The operations. Every bus operation carries the transaction's probe bit, since the bit does not
change which operation is selected (30_encoding.md rule R80). -/
inductive Instr
  /-- `CVW`: `mirror` is the ignored field `a[7:5]`, `entry` is `a[4:0]` (rules R62, R90). -/
  | cvw (mirror : BitVec 3) (entry : BitVec 5) (data : Byte) (probe : Bool)
  /-- `ROWW` (rule R170). -/
  | roww (data : Byte) (probe : Bool)
  /-- `BTNR` (rule R172). -/
  | btnr (grp : ColGroup) (probe : Bool)
  /-- `KBDR` (rule R156). -/
  | kbdr (probe : Bool)
  /-- `ENCR` (rule R181). -/
  | encr (probe : Bool)
  /-- `EDW` (rule R195). -/
  | edw (data : Byte) (probe : Bool)
  /-- `PDW` (rule R197). -/
  | pdw (data : Byte) (probe : Bool)
  /-- `OLW` (rule R198). -/
  | olw (k : Nat) (data : Byte) (probe : Bool)
  /-- `NVR` (rule R199). -/
  | nvr (off : Nat) (probe : Bool)
  /-- `NVW` (rule R199). -/
  | nvw (off : Nat) (data : Byte) (probe : Bool)
  /-- `EGNOTE` (rule R110). -/
  | egnote (c : Contour) (value : Amps)
  /-- `EGRC` (rule R112). -/
  | egrc (c : Contour)
  /-- `LFONOTE` (rule R130). -/
  | lfonote (value : Amps)
  /-- `LFORC` (rule R131). -/
  | lforc
  /-- `LFOTICK` (rule R138). -/
  | lfotick
  /-- `OCTCHG` (rule R175). -/
  | octchg (raw : Byte)
  /-- `ENCMOV` (rule R178). -/
  | encmov (oldPos newPos : EncPos)
  /-- `RESET` (rule R240). -/
  | reset
  deriving DecidableEq, Repr

/-- A bus transaction `(space, dir, addr, data, probe)` (30_encoding.md rule R61): data is present
on writes only. -/
inductive BusTxn
  | read (space : Space) (addr : Addr) (probe : Bool)
  | write (space : Space) (addr : Addr) (data : Byte) (probe : Bool)
  deriving DecidableEq, Repr

/-- What the scheduler's queue can hold: the deferred recomputes (10_state.md rule R24). -/
inductive Deferred
  | egrc (c : Contour)
  | lforc
  deriving DecidableEq, Repr

/-- Everything that can be delivered to the block, before it is decoded (00_scope.md rule R2,
30_encoding.md rules R60, R61, R65). -/
inductive Wire
  /-- A transaction of the CPU. -/
  | bus (t : BusTxn)
  /-- The solver's `onAnalogOutputChanged(id, value)`. -/
  | notify (id : SolverId) (value : Amps)
  /-- The input service's octave change event, with its raw reading. -/
  | octave (raw : Byte)
  /-- The input service's encoder movement event. -/
  | encoder (oldPos newPos : EncPos)
  /-- A queue entry the scheduler delivers. -/
  | queued (d : Deferred)
  /-- The firing of the LFO timer. -/
  | timer
  /-- Power-on. -/
  | powerOn
  deriving DecidableEq, Repr

end Sys2Proof
end

