-- ==== Sys2Proof/WellFormed.lean ====
section
/-! DEFINITION. The memory-mapped address map as the function `memDecode`, its inverse search, and
which operations are well formed on a board: a memory-mapped operation is, when some address
selects its target. -/

namespace Sys2Proof

/-- `memDecode` (20_memory.md rule R44): the target of an address in a direction; the first row of
the table counts, and an address without a row is `UNMAPPED`. -/
def Config.memDecode (cfg : Config) (addr : Addr) (dir : Dir) : Target :=
  match cfg.memMap.find? (fun e => e.addr == addr && e.dir == dir) with
  | some e => e.target
  | none => .unmapped

/-- An address that selects target `t` in direction `dir`, the first in the table's order. -/
def Config.addrOf (cfg : Config) (dir : Dir) (t : Target) : Option Addr :=
  (cfg.memMap.find? (fun e => e.dir == dir && e.target == t
    && cfg.memDecode e.addr dir == t)).map (·.addr)

/-- Whether some address of the map selects target `t` in direction `dir`. -/
def Config.reaches (cfg : Config) (dir : Dir) (t : Target) : Bool :=
  (cfg.addrOf dir t).isSome

/-- The `MEM` target and direction that select a memory-mapped operation (30_encoding.md rule R60);
`none` for the operations selected otherwise. -/
def Instr.memTarget : Instr → Option (Dir × Target)
  | .cvw _ _ _ _ => none
  | .roww _ _ => some (.write, .rowLatch)
  | .btnr g _ => some (.read, .buttons g)
  | .kbdr _ => some (.read, .keyboard)
  | .encr _ => some (.read, .encoder)
  | .edw _ _ => some (.write, .editDisplay)
  | .pdw _ _ => some (.write, .programDisplay)
  | .olw k _ _ => some (.write, .outLatch k)
  | .nvr off _ => some (.read, .nvram off)
  | .nvw off _ _ => some (.write, .nvram off)
  | .egnote _ _ => none
  | .egrc _ => none
  | .lfonote _ => none
  | .lforc => none
  | .lfotick => none
  | .octchg _ => none
  | .encmov _ _ => none
  | .reset => none

/-- Well-formedness of an operation on a board. The operand ranges of 30_encoding.md (entry 0..31,
bytes, positions 0..239) are the operands' types; what is left to check is that a memory-mapped
operation has an address. -/
def Instr.wellFormed (cfg : Config) (i : Instr) : Bool :=
  match i.memTarget with
  | none => true
  | some (dir, t) => cfg.reaches dir t

end Sys2Proof
end

