-- ==== Sys2Proof/Decode.lean ====
section
/-! DEFINITION. Decoding: the bus dispatcher (45_dispatcher.md rule R190), the events' tags
(30_encoding.md rule R65), and the frame in which this model writes a bus transaction as four
bytes. Every decoder is total and rejects by name. The encoders stand after the decoders. -/

namespace Sys2Proof

/-- Why nothing is selected. The first four are accesses the block does not decode and ignores
(30_encoding.md rule R78); the last two reject bytes that are no frame of this model's. -/
inductive Reject
  /-- An I/O read (45_dispatcher.md rule R192). -/
  | ioRead
  /-- A memory read that `memDecode` maps to no readable target (45_dispatcher.md rule R200). -/
  | unmappedRead
  /-- A memory write that `memDecode` maps to no writable target (rule R200). -/
  | unmappedWrite
  /-- A solver notification with an id that is none of the block's three (rule R65). -/
  | foreignNotification
  /-- Fewer bytes than a frame has. -/
  | truncatedFrame
  /-- A frame with a reserved bit set. -/
  | reservedFrame
  deriving DecidableEq, Repr

/-! ### From transactions and events to operations -/

/-- The operation a memory read of target `t` selects (45_dispatcher.md rules R190, R193). -/
def decodeMemRead (t : Target) (probe : Bool) : Except Reject Instr :=
  match t with
  | .buttons g => .ok (.btnr g probe)
  | .keyboard => .ok (.kbdr probe)
  | .encoder => .ok (.encr probe)
  | .nvram off => .ok (.nvr off probe)
  | .editDisplay => .error .unmappedRead
  | .outLatch _ => .error .unmappedRead
  | .rowLatch => .error .unmappedRead
  | .programDisplay => .error .unmappedRead
  | .unmapped => .error .unmappedRead

/-- The operation a memory write to target `t` selects (45_dispatcher.md rules R190, R194). -/
def decodeMemWrite (t : Target) (data : Byte) (probe : Bool) : Except Reject Instr :=
  match t with
  | .editDisplay => .ok (.edw data probe)
  | .programDisplay => .ok (.pdw data probe)
  | .outLatch k => .ok (.olw k data probe)
  | .rowLatch => .ok (.roww data probe)
  | .nvram off => .ok (.nvw off data probe)
  | .buttons _ => .error .unmappedWrite
  | .keyboard => .error .unmappedWrite
  | .encoder => .error .unmappedWrite
  | .unmapped => .error .unmappedWrite

/-- The 8 address bits the I/O space decodes, `addr & 0xFF` (20_memory.md rule R41). -/
def ioAddress (addr : Addr) : BitVec 8 := addr.extractLsb' 0 8

/-- `entry = a[4:0]` (30_encoding.md rule R62). -/
def ioEntry (a : BitVec 8) : BitVec 5 := a.extractLsb' 0 5

/-- `a[7:5]`, the ignored field of format `IOW` (30_encoding.md rule R62). -/
def ioMirror (a : BitVec 8) : BitVec 3 := a.extractLsb' 5 3

/-- The whole decode of a transaction (45_dispatcher.md rule R190). -/
def decodeBus (cfg : Config) : BusTxn → Except Reject Instr
  | .write .io addr data probe =>
    .ok (.cvw (ioMirror (ioAddress addr)) (ioEntry (ioAddress addr)) data probe)
  | .read .io _ _ => .error .ioRead
  | .read .mem addr probe => decodeMemRead (cfg.memDecode addr .read) probe
  | .write .mem addr data probe => decodeMemWrite (cfg.memDecode addr .write) data probe

/-- The operation a solver notification selects, by its id (30_encoding.md rule R65). -/
def decodeNotification (cfg : Config) (id : SolverId) (value : Amps) : Except Reject Instr :=
  if id = cfg.solverOutRate.filter then .ok (.egnote .filter value)
  else if id = cfg.solverOutRate.loudness then .ok (.egnote .loudness value)
  else if id = cfg.solverOutLfoRate then .ok (.lfonote value)
  else .error .foreignNotification

/-- The operation a queue entry stands for (10_state.md rule R24). -/
def Deferred.toInstr : Deferred → Instr
  | .egrc c => .egrc c
  | .lforc => .lforc

/-- The operation anything delivered to the block selects (30_encoding.md rule R60). -/
def decode (cfg : Config) : Wire → Except Reject Instr
  | .bus t => decodeBus cfg t
  | .notify id value => decodeNotification cfg id value
  | .octave raw => .ok (.octchg raw)
  | .encoder oldPos newPos => .ok (.encmov oldPos newPos)
  | .queued d => .ok d.toInstr
  | .timer => .ok .lfotick
  | .powerOn => .ok .reset

/-! ### The four-byte frame of a bus transaction

DESIGN CHOICE (log entry 9): the spec gives the transaction as a tuple and no wire form. The frame
is 32 bits, so that its first byte is the address byte of format `IOW` as opcode_table.json numbers
it: bits 15..0 the address, 23..16 the data (0 on a read), 24 probe, 25 space (1 = `MEM`), 26
direction (1 = `READ`), 31..27 zero. -/

/-- The transaction a 32-bit frame stands for. -/
def decodeFrame (w : BitVec 32) : Except Reject BusTxn :=
  let addr : Addr := w.extractLsb' 0 16
  let data : Byte := w.extractLsb' 16 8
  let probe := w.getLsbD 24
  let space : Space := if w.getLsbD 25 then .mem else .io
  if w.extractLsb' 27 5 ≠ 0#5 then .error .reservedFrame
  else if w.getLsbD 26 then
    if data ≠ 0#8 then .error .reservedFrame else .ok (.read space addr probe)
  else .ok (.write space addr data probe)

/-- A 32-bit word from its bytes, the first byte lowest. -/
def word32 (b0 b1 b2 b3 : Byte) : BitVec 32 := b3 ++ b2 ++ b1 ++ b0

/-- The operation the first four bytes select, and the bytes after them. -/
def decodeBytes (cfg : Config) : List Byte → Except Reject (Instr × List Byte)
  | b0 :: b1 :: b2 :: b3 :: rest =>
    match decodeFrame (word32 b0 b1 b2 b3) with
    | .error r => .error r
    | .ok t =>
      match decodeBus cfg t with
      | .error r => .error r
      | .ok i => .ok (i, rest)
  | _ => .error .truncatedFrame

/-- The four bytes of a number's low 32 bits, the lowest first. -/
def bytesOfNat (w : Nat) : List Byte :=
  [BitVec.ofNat 8 w, BitVec.ofNat 8 (w / 2 ^ 8), BitVec.ofNat 8 (w / 2 ^ 16),
    BitVec.ofNat 8 (w / 2 ^ 24)]

/-- The operation the decoder reads from an operation whose `nbits` bits are `w`, the bits above
them 0, on the board's map. Only bus operations have bits (30_encoding.md rule R65). -/
def decodeTableWord (nbits w : Nat) : Option Instr :=
  match decodeBytes Config.board (bytesOfNat (w % 2 ^ nbits)) with
  | .ok (i, _) => some i
  | .error _ => none

/-! ### Encoders -/

/-- The transaction that reads target `t`, at an address the map gives it. -/
def encodeMemRead (cfg : Config) (t : Target) (probe : Bool) : Option Wire :=
  (cfg.addrOf .read t).map (fun a => .bus (.read .mem a probe))

/-- The transaction that writes target `t`, at an address the map gives it. -/
def encodeMemWrite (cfg : Config) (t : Target) (data : Byte) (probe : Bool) : Option Wire :=
  (cfg.addrOf .write t).map (fun a => .bus (.write .mem a data probe))

/-- The wire form of an operation: the tuple of rule R61 for a bus operation (a CVW at the I/O
address `32 * mirror + entry`, rule R81), the tagged payload of rule R65 for an event; `none` where
the map has no address for a memory-mapped operation. -/
def encode (cfg : Config) : Instr → Option Wire
  | .cvw mirror entry data probe =>
    some (.bus (.write .io (0#8 ++ (mirror ++ entry)) data probe))
  | .roww data probe => encodeMemWrite cfg .rowLatch data probe
  | .btnr g probe => encodeMemRead cfg (.buttons g) probe
  | .kbdr probe => encodeMemRead cfg .keyboard probe
  | .encr probe => encodeMemRead cfg .encoder probe
  | .edw data probe => encodeMemWrite cfg .editDisplay data probe
  | .pdw data probe => encodeMemWrite cfg .programDisplay data probe
  | .olw k data probe => encodeMemWrite cfg (.outLatch k) data probe
  | .nvr off probe => encodeMemRead cfg (.nvram off) probe
  | .nvw off data probe => encodeMemWrite cfg (.nvram off) data probe
  | .egnote c value => some (.notify (cfg.solverOutRate.get c) value)
  | .egrc c => some (.queued (.egrc c))
  | .lfonote value => some (.notify cfg.solverOutLfoRate value)
  | .lforc => some (.queued .lforc)
  | .lfotick => some .timer
  | .octchg raw => some (.octave raw)
  | .encmov oldPos newPos => some (.encoder oldPos newPos)
  | .reset => some .powerOn

/-- The frame of a transaction. -/
def encodeFrame : BusTxn → BitVec 32
  | .read space addr probe =>
    0#5 ++ 1#1 ++ BitVec.ofBool (space == .mem) ++ BitVec.ofBool probe ++ 0#8 ++ addr
  | .write space addr data probe =>
    0#5 ++ 0#1 ++ BitVec.ofBool (space == .mem) ++ BitVec.ofBool probe ++ data ++ addr

/-- The bytes of a word, the lowest first. -/
def bytesOfWord32 (w : BitVec 32) : List Byte :=
  [w.extractLsb' 0 8, w.extractLsb' 8 8, w.extractLsb' 16 8, w.extractLsb' 24 8]

/-- The four bytes of a bus operation on a board; `none` for an operation that is none, or that the
map gives no address. -/
def encodeBytes (cfg : Config) (i : Instr) : Option (List Byte) :=
  match encode cfg i with
  | some (.bus t) => some (bytesOfWord32 (encodeFrame t))
  | _ => none

end Sys2Proof
end

