-- ==== Sys2Proof/Machine/State.lean ====
section
/-! DEFINITION. The machine's state as plain data (10_state.md), with the environment the block
reads (rule R31) and the actions of the environment agents still to come (00_scope.md rule R2),
and the state after reset (70_reset_and_hazards.md rule R240). -/

namespace Sys2Proof.Machine

/-- Why the machine stops with a fault: never. "The block raises no exception, fault or trap"
(60_exceptions.md rule R210), so the type has no constructor. -/
inductive Fault
  deriving DecidableEq, Repr

/-- Why a step is refused. -/
inductive Refusal
  /-- `exec` raises it for an operation without a meaning, by its mnemonic; safe. No arm does. -/
  | notModelled (mnemonic : String)
  deriving DecidableEq, Repr

/-- The outbound calls of 10_state.md rule R34, and the two accesses forwarded to the
battery-backed memory (45_dispatcher.md rule R199; log entry 8). `log` carries no text, which no
rule gives (U11; log entry 20). -/
inductive OutCall
  | adjustCycleBudget (delta : Int)
  | setInterruptLine (asserted : Bool)
  | setAnalogInput (id : SolverId) (value : Volts)
  | setResistance (id : SolverId) (ohms : Ohms)
  | setTargetVoltage (id : SolverId) (volts : Volts)
  | led (name : LedName) (lit : Bool)
  | segments (display : Display) (digit : Nat) (mask : Byte)
  | flag (name : FlagName) (value : Bool)
  | log
  | nvramRead (off : Nat) (probe : Bool)
  | nvramWrite (off : Nat) (data : Byte) (probe : Bool)
  deriving DecidableEq, Repr

/-- The LFO timer (10_state.md rule R15). `stamp` is the order number of the arming, which decides
between a firing and a queue entry of equal time (20_memory.md rule R53; log entry 13). -/
inductive LfoTimer
  | disarmed
  | armed (next period : Seconds) (stamp : Nat)
  deriving DecidableEq, Repr

/-- An entry of the event queue: its time stamp, its order number and the deferred operation
(10_state.md rule R24). -/
structure QueueEntry where
  time : Seconds
  stamp : Nat
  op : Deferred
  deriving DecidableEq, Repr

/-- The battery-backed memory: offsets strictly rising, no entry equal to what the battery kept
there (log entry 7). -/
abbrev Memory := List Host.Cell

/-- One answer the solver gives: the voltage of element `id` at time `time`. -/
structure SolverAnswer where
  id : SolverId
  time : Seconds
  volts : Volts
  deriving DecidableEq, Repr

/-- What the input-port service and the solver answer at present (10_state.md rules R13, R31): not
state of the block, but the environment's values it reads, which may change between operations. -/
structure Env where
  /-- `In.buttons(A, r)`, `In.buttons(B, r)` -/
  buttonsA : Vector Byte Config.rowBits
  buttonsB : Vector Byte Config.rowBits
  /-- `In.keys(g)`, an unsigned bit field -/
  keys : Vector Nat Config.kbdGroups
  /-- `In.octave()` -/
  octave : Byte
  /-- `In.encoder()` -/
  encoder : EncPos
  /-- `In.trigger()` -/
  trigger : Bool
  /-- `In.trimmer(k)`, 0..100 -/
  trimmer : Vector (Fin 101) Config.trimmers
  /-- The answers to `Solver.queryVoltage` that are settled; the others are free values. -/
  answers : List SolverAnswer
  deriving DecidableEq, Repr

/-- A change of the environment between two operations (30_encoding.md rule R82, `SET`). -/
inductive EnvChange
  | buttons (grp : ColGroup) (row : Fin Config.rowBits) (port : Byte)
  | keys (group : Fin Config.kbdGroups) (bits : Nat)
  | octave (raw : Byte)
  | encoder (pos : EncPos)
  | trigger (level : Bool)
  | trimmer (k : Fin Config.trimmers) (value : Fin 101)
  | answer (id : SolverId) (time : Seconds) (volts : Volts)
  deriving DecidableEq, Repr

/-- One action of an environment agent (00_scope.md rule R2; log entry 1). -/
inductive Input
  /-- The CPU issues a transaction. -/
  | bus (t : BusTxn)
  /-- The solver notifies a changed output. -/
  | notify (id : SolverId) (value : Amps)
  /-- The input service reports an octave button change. -/
  | octave (raw : Byte)
  /-- The input service reports an encoder movement. -/
  | encoder (oldPos newPos : EncPos)
  /-- Power-on. -/
  | powerOn
  /-- The scheduler delivers the earliest pending item, if there is one (20_memory.md rule R53). -/
  | deliver
  /-- `RUN`: the scheduler delivers every item due by `now` (30_encoding.md rule R82). -/
  | run
  /-- `ADVANCE t`: the scheduler delivers every item due by `t` and ends with `now = t`. -/
  | advance (t : Seconds)
  /-- The scheduler moves virtual time to `t` and delivers nothing; it stops at a pending item, which
  it may not pass (20_memory.md rule R53; log entry 28). -/
  | elapse (t : Seconds)
  /-- `SET`: an input or an oracle answer changes. -/
  | set (change : EnvChange)
  deriving DecidableEq, Repr

/-- The state of the machine. Every register of 10_state.md stands under the spec's name; the fields
after `trace` are the model's own or the environment's, as each docstring says. -/
structure State where
  /-- The OPEN parameters, fixed at construction; no step changes them (log entry 2). -/
  cfg : Config
  /-- Last raw byte of each CV channel (rule R10). -/
  cvRaw : Vector Byte Config.cvChannels
  /-- Derived voltage of each CV channel (rules R10, R11). -/
  cvVolt : Vector Volts Config.cvChannels
  /-- EG control currents (rule R12). -/
  egCurrent : PerContour Amps
  /-- EG resistances last pushed; `none` until the first push (rule R12). -/
  egR : PerContour (Option Ohms)
  /-- EG target voltages last pushed (rule R12). -/
  egTarget : PerContour (Option Volts)
  /-- LFO control current (rule R14). -/
  lfoCurrent : Amps
  /-- LFO running half-period; `none` until the first arming (rule R14). -/
  lfoHalf : Option Seconds
  /-- LFO square-wave phase (rule R14). -/
  lfoPhase : Bool
  /-- The LFO timer (rule R15). -/
  lfoTimer : LfoTimer
  /-- Row-select latch, bit 0 = row active (rule R17). -/
  rowLatch : BitVec Config.rowBits
  /-- Octave-select latch, true = HIGH (rule R18). -/
  octaveHi : Bool
  /-- The encoder's last direction (rule R19). -/
  encDir : EncDir
  /-- The interrupt line's level, and the pending interrupt (rule R20). -/
  irq : Bool
  /-- Last byte written to the edit display (rule R21). -/
  editDisplay : Byte
  /-- Last byte written to the program display (rule R21). -/
  programDisplay : Byte
  /-- Last byte written to each output latch (rule R22). -/
  outLatch : List Byte
  /-- The scheduler's virtual time (rule R23). -/
  now : Seconds
  /-- The event queue's deferred recomputes (rule R24). -/
  queue : List QueueEntry
  /-- The output trace (rule R34). -/
  trace : List OutCall
  /-- The byte the latest bus read returned to the CPU; `none` before the first (log entry 17). -/
  readData : Option Byte
  /-- The external battery-backed memory, as the byte array of rule R199 (log entry 7). -/
  nvram : Memory
  /-- The environment's present values (rules R13, R31; log entries 5, 6). -/
  env : Env
  /-- The environment agents' actions to come, in their total order (20_memory.md rule R48). -/
  inbox : List Input
  /-- The order number of the next scheduling or arming (log entry 13). -/
  stamp : Nat
  /-- The number of the present draw of free values (log entry 4). -/
  draws : Nat
  deriving DecidableEq, Repr

/-- The default inputs of 95_test_vectors.md section 0: no key pressed, every raw column port 0xFF,
trigger low. The octave reading, encoder position and trimmers are 0; no answer of the solver's is
settled. DESIGN CHOICE (log entry 5); unsafe. -/
def Env.idle : Env where
  buttonsA := Vector.replicate Config.rowBits 0xFF
  buttonsB := Vector.replicate Config.rowBits 0xFF
  keys := Vector.replicate Config.kbdGroups 0
  octave := 0
  encoder := 0
  trigger := false
  trimmer := Vector.replicate Config.trimmers 0
  answers := []

/-- The state after power-on of a board with parameters `cfg` (70_reset_and_hazards.md rule R240).
The launch values the spec leaves unspecified are the free values of draw 0 (log entry 3). -/
def State.resetOf (cfg : Config) : State where
  cfg := cfg
  cvRaw := Vector.replicate Config.cvChannels Config.cvReset
  cvVolt := Vector.replicate Config.cvChannels 0
  egCurrent := ⟨0, 0⟩
  egR := ⟨none, none⟩
  egTarget := ⟨none, none⟩
  lfoCurrent := 0
  lfoHalf := none
  lfoPhase := false
  lfoTimer := .disarmed
  rowLatch := Config.freeRowLatch 0
  octaveHi := Config.octaveReset
  encDir := Config.freeEncDir 0
  irq := false
  editDisplay := Config.freeDisplay 0 .edit
  programDisplay := Config.freeDisplay 0 .program
  outLatch := (List.range cfg.outLatchCount).map (Config.freeOutLatch 0)
  now := 0
  queue := []
  trace := []
  readData := none
  nvram := []
  env := Env.idle
  inbox := []
  stamp := 0
  draws := 0

/-- The machine right after reset: the board at hand, whose parameters the spec leaves open. -/
def State.reset : State := State.resetOf Config.board

end Sys2Proof.Machine
end

