-- ==== Sys2Proof/Machine/Ops.lean ====
section
/-! DEFINITION. The named operations on the state that the meanings share: outbound calls, the CV
store, the interrupt line, the deferral of recomputes, the LFO timer, the battery-backed memory and
the queries of the environment.

The block takes no exception and returns from none (60_exceptions.md rules R210, R222, R223); what
stands in their place is the one interrupt line, asserted and cleared by `State.setInterruptLine`. -/

namespace Sys2Proof.Machine

/-- An outbound call: it is recorded at the end of the output trace (10_state.md rule R34). -/
def State.emit (s : State) (c : OutCall) : State := { s with trace := s.trace ++ [c] }

/-- Several outbound calls, in order. -/
def State.emitAll (s : State) (cs : List OutCall) : State := { s with trace := s.trace ++ cs }

/-- A bus read returns byte `b` to the CPU (30_encoding.md rule R61). -/
def State.respond (s : State) (b : Byte) : State := { s with readData := some b }

/-- `Cpu.setInterruptLine(b)`: drives the line and sets `irq` (00_scope.md section 6.3). -/
def State.setInterruptLine (s : State) (b : Bool) : State :=
  ({ s with irq := b }).emit (.setInterruptLine b)

/-! ### CV store -/

/-- `voltage(b) = CV_FULL_SCALE * b / CV_DIVISOR`, exact (40_cv_store.md rule R91). -/
def voltage (b : Byte) : Volts := mkRat (Config.cvFullScale * b.toNat) Config.cvDivisor

/-- `cvRaw[ch] <- data; cvVolt[ch] <- voltage(data)`, together (40_cv_store.md rule R95). -/
def State.storeCv (s : State) (ch : Fin Config.cvChannels) (data : Byte) : State :=
  { s with cvRaw := s.cvRaw.set ch data, cvVolt := s.cvVolt.set ch (voltage data) }

/-! ### The event queue -/

/-- Entry `e` placed behind the entries of its time and ahead of those of a later time
(20_memory.md rule R49). -/
def insertEntry (e : QueueEntry) : List QueueEntry → List QueueEntry
  | [] => [e]
  | x :: xs => if e.time < x.time then e :: x :: xs else x :: insertEntry e xs

/-- `scheduleNow(op)`: one entry at time `now`, never merged (20_memory.md rule R49). -/
def State.scheduleNow (s : State) (op : Deferred) : State :=
  { s with queue := insertEntry ⟨s.now, s.stamp, op⟩ s.queue, stamp := s.stamp + 1 }

/-! ### The LFO timer -/

/-- `Timer.arm(first, period)`: replaces whatever the timer held (42_lfo.md rule R135). -/
def State.armTimer (s : State) (first period : Seconds) : State :=
  { s with lfoTimer := .armed first period s.stamp, stamp := s.stamp + 1 }

/-- `Timer.disarm()` (42_lfo.md rule R135). -/
def State.disarmTimer (s : State) : State := { s with lfoTimer := .disarmed }

/-- The part of the half-cycle still to come, `Timer.remaining() / Timer.period()`, 0 if the timer
is not armed (42_lfo.md rules R133, R136). -/
def State.timerFraction (s : State) : Rat :=
  match s.lfoTimer with
  | .disarmed => 0
  | .armed next period _ => (next - s.now) / period

/-- Virtual time moves to `t`, never backwards (10_state.md rule R23). -/
def State.moveTo (s : State) (t : Seconds) : State :=
  { s with now := if s.now < t then t else s.now }

/-! ### The battery-backed memory (45_dispatcher.md rule R199) -/

/-- The byte at an offset: the entry's, or what the battery kept. -/
def Memory.read : Memory → Nat → Byte
  | [], off => Config.batteryByte off
  | (a, v) :: m, off => if a = off then v else Memory.read m off

/-- Storing a byte; the entry goes when the byte is what the battery kept. -/
def Memory.write : Memory → Nat → Byte → Memory
  | [], off, v => if v = Config.batteryByte off then [] else [(off, v)]
  | (a, u) :: m, off, v =>
    if off < a then
      if v = Config.batteryByte off then (a, u) :: m else (off, v) :: (a, u) :: m
    else if off = a then
      if v = Config.batteryByte off then m else (off, v) :: m
    else (a, u) :: Memory.write m off v

/-- The canonical form: offsets strictly rising, no entry equal to the battery's byte. -/
def Memory.wf : Memory → Bool
  | [] => true
  | (a, v) :: m =>
    decide (v ≠ Config.batteryByte a) && m.all (fun c => decide (a < c.1)) && Memory.wf m

/-! ### Queries of the environment -/

/-- `Solver.queryVoltage(id, t)`: the settled answer, or a free value (10_state.md rule R13). -/
def State.queryVoltage (s : State) (id : SolverId) (t : Seconds) : Volts :=
  match s.env.answers.find? (fun a => a.id == id && a.time == t) with
  | some a => a.volts
  | none => Config.freeVolts s.draws id t

/-- The six raw column ports of a group, `In.buttons(grp, 0..5)` (10_state.md rule R31). -/
def Env.buttons (e : Env) : ColGroup → Vector Byte Config.rowBits
  | .a => e.buttonsA
  | .b => e.buttonsB

/-- The environment after a change (30_encoding.md rule R82). -/
def Env.apply (e : Env) : EnvChange → Env
  | .buttons .a r port => { e with buttonsA := e.buttonsA.set r port }
  | .buttons .b r port => { e with buttonsB := e.buttonsB.set r port }
  | .keys g bits => { e with keys := e.keys.set g bits }
  | .octave raw => { e with octave := raw }
  | .encoder pos => { e with encoder := pos }
  | .trigger level => { e with trigger := level }
  | .trimmer k value => { e with trimmer := e.trimmer.set k value }
  | .answer id t volts =>
    { e with answers := ⟨id, t, volts⟩ :: e.answers.filter (fun a => !(a.id == id && a.time == t)) }

end Sys2Proof.Machine
end

