-- ==== Sys2Proof/Machine/Operands.lean ====
section
/-! DEFINITION. The operand forms of 30_encoding.md section 3: the CV entry's channel and class, the
bytes the block assembles for a read, the fields it takes from a written byte, and the calls a
written byte turns into. -/

namespace Sys2Proof.Machine

/-- The channel an entry selects: entries 24..31 select none (30_encoding.md rules R62, R77). -/
def channelOf (entry : BitVec 5) : Option (Fin Config.cvChannels) :=
  if h : entry.toNat < Config.cvChannels then some ⟨entry.toNat, h⟩ else none

/-- `chanClass` (30_encoding.md rule R67): fixed on the seven named channels, the board's own
elsewhere. -/
def chanClass (cfg : Config) (ch : Fin Config.cvChannels) : ChanClass :=
  if ch = cfg.chContourRate.filter then .egRate .filter
  else if ch = cfg.chContourRate.loudness then .egRate .loudness
  else if ch = cfg.chModRate then .lfoRate
  else if ch = cfg.chContourLevel.filter then .egLevel .filter
  else if ch = cfg.chContourLevel.loudness then .egLevel .loudness
  else if ch = cfg.chCutoffCoarse then .plain
  else if ch = cfg.chKeyboardApprox then .plain
  else cfg.otherClass[ch]

/-- A byte from its eight bits, bit `i` being `f i`. -/
def byteOf (f : Fin 8 → Bool) : Byte :=
  BitVec.ofBool (f 7) ++ BitVec.ofBool (f 6) ++ BitVec.ofBool (f 5) ++ BitVec.ofBool (f 4)
    ++ BitVec.ofBool (f 3) ++ BitVec.ofBool (f 2) ++ BitVec.ofBool (f 1) ++ BitVec.ofBool (f 0)

/-- The row-latch field of a written byte, `data[5:0]` (30_encoding.md rule R68). -/
def rowField (data : Byte) : BitVec Config.rowBits := data.extractLsb' 0 Config.rowBits

/-- The column byte (44_panel.md rule R172): the complements of the active rows' raw ports, ORed,
masked to six columns, the two unconnected bits high. -/
def columnByte (latch : BitVec Config.rowBits) (ports : Vector Byte Config.rowBits) : Byte :=
  let acc := (List.finRange Config.rowBits).foldl
    (fun acc (r : Fin Config.rowBits) => if latch.getLsbD r = false then acc ||| ~~~ports[r] else acc) (0 : Byte)
  (acc &&& Config.colMask) ||| Config.colFloat

/-- The encoder byte (30_encoding.md rule R71). -/
def encoderByte (cfg : Config) : EncDir → Byte
  | .inc => cfg.encReadInc
  | .dec => cfg.encReadDec

/-- The segment mask of a nibble, `SEG_TABLE` (45_dispatcher.md rule R196). -/
def segmentsOf (cfg : Config) (nibble : BitVec 4) : Byte := cfg.segTable[nibble.toFin]

/-- `data[3:0]`, digit 0 (30_encoding.md rule R72). -/
def lowNibble (data : Byte) : BitVec 4 := data.extractLsb' 0 4

/-- `data[7:4]`, digit 1 (30_encoding.md rule R72). -/
def highNibble (data : Byte) : BitVec 4 := data.extractLsb' 4 4

/-- The two output-service calls of a display write (45_dispatcher.md rules R195, R197). -/
def displayCalls (cfg : Config) (d : Display) (data : Byte) : List OutCall :=
  [.segments d 0 (segmentsOf cfg (lowNibble data)), .segments d 1 (segmentsOf cfg (highNibble data))]

/-- The call one output-latch bit makes (45_dispatcher.md rule R198). -/
def outBitCall (b : Bool) : OutBit → Option OutCall
  | .led name inverted => some (.led name (xor b inverted))
  | .flag name inverted => some (.flag name (xor b inverted))
  | .unused => none

/-- The calls of an output-latch write, bit 0 first (45_dispatcher.md rule R198). -/
def latchCalls (bits : Vector OutBit 8) (data : Byte) : List OutCall :=
  (List.finRange 8).filterMap (fun (i : Fin 8) => outBitCall (data.getLsbD i) bits[i])

/-- The calls of a write to latch `k`; a latch the board does not have drives nothing. -/
def latchCallsAt (cfg : Config) (k : Nat) (data : Byte) : List OutCall :=
  match cfg.outBits[k]? with
  | some bits => latchCalls bits data
  | none => []

/-- The octave LED projection (44_panel.md rule R177). -/
def octaveCalls (octaveHi : Bool) : List OutCall :=
  [.led .octaveHi octaveHi, .led .octaveLo (!octaveHi)]

/-- `OCT_SET(raw)` (44_panel.md rule R176; log entry 11). -/
def octSet (cfg : Config) (raw : Byte) : Bool := cfg.octSetReadings.contains raw

/-- `OCT_RESET(raw)` (44_panel.md rule R176; log entry 11). -/
def octReset (cfg : Config) (raw : Byte) : Bool := cfg.octResetReadings.contains raw

/-! ### Analog operands -/

/-- `R` of `egDerive` (41_envelope.md rule R113): `1 / (OTA_GM * I * EG_DIV_MINUS[c])`. -/
def egResistance (cfg : Config) (c : Contour) (current : Amps) : Ohms :=
  1 / (Config.otaGm * current * cfg.egDivMinus.get c)

/-- `T` of `egDerive` (41_envelope.md rule R113): `levelCv * EG_DIV_PLUS[c] / EG_DIV_MINUS[c]`. -/
def egTargetVoltage (cfg : Config) (c : Contour) (level : Volts) : Volts :=
  level * cfg.egDivPlus.get c / cfg.egDivMinus.get c

/-- The level CV of contour `c`, as the store holds it now (41_envelope.md rule R113). -/
def State.levelCv (s : State) (c : Contour) : Volts := s.cvVolt[s.cfg.chContourLevel.get c]

/-- `tHalf = 2 * LFO_V_PEAK * LFO_C / iOut` (42_lfo.md rule R132). -/
def lfoHalfPeriod (cfg : Config) (current : Amps) : Seconds :=
  2 * cfg.lfoVPeak * cfg.lfoC / current

/-! ### The keyboard -/

/-- The lowest set bit of a group's reading, of the `width` bits it has (43_keyboard.md rule R151). -/
def lowestBit (width bits : Nat) : Option Nat := (List.range width).find? (fun b => bits.testBit b)

/-- The lowest pressed key of the groups `(width, reading)` from the lowest up, `base` being the
index of the first group's lowest key (43_keyboard.md rules R150, R151). -/
def lowestKey (base : Nat) : List (Nat × Nat) → Option Nat
  | [] => none
  | (width, bits) :: groups =>
    match lowestBit width bits with
    | some b => some (base + b)
    | none => lowestKey (base + width) groups

/-- `resolvePressedKey()` (43_keyboard.md rule R151). -/
def resolvePressedKey (cfg : Config) (keys : Vector Nat Config.kbdGroups) : Option Nat :=
  lowestKey 0 (cfg.kbdGroupWidth.toList.zip keys.toList)

/-- `keyVoltage(k)`, the two-stage ladder (43_keyboard.md rule R152). -/
def keyVoltage (cfg : Config) : Option Nat → Volts
  | none => 0
  | some key =>
    let lowerR := cfg.kbdRA + key * cfg.kbdRKey
    let upperR := ((cfg.kbdTotalKeys : Rat) - key - 1) * cfg.kbdRKey
    cfg.kbdVref * lowerR / (lowerR + upperR) * cfg.kbdDiv2

end Sys2Proof.Machine
end

