-- ==== Sys2Proof/Machine/Flags.lean ====
section
/-! DEFINITION. The flags of 10_state.md section 6: the derived ones (peak detectors, keyboard
comparator, status byte) and the transitions of the stored ones (octave latch, encoder direction). -/

namespace Sys2Proof.Machine

/-- `peaked(c)` from the solver's two answers (41_envelope.md rules R115 to R117): strict comparisons,
the closed band decided by the trend, a flat trend counting as rising (decision D10; log entry 25). -/
def peakedFrom (rise fall v vf : Volts) : Bool :=
  if rise < v then true
  else if v < fall then false
  else decide ((if vf < v then fall else rise) < v)

/-- `peaked(c)`: the two queries at `now` and `now + PEAK_LOOKAHEAD` (41_envelope.md rule R115). -/
def State.peaked (s : State) (c : Contour) : Bool :=
  peakedFrom (s.cfg.peakVRise.get c) (s.cfg.peakVFall.get c)
    (s.queryVoltage (s.cfg.solverRc.get c) s.now)
    (s.queryVoltage (s.cfg.solverRc.get c) (s.now + Config.peakLookahead))

/-- `kbdCmp()`: the keyboard voltage strictly above the trial voltage (43_keyboard.md rule R154). -/
def State.kbdCmp (s : State) : Bool :=
  decide (s.cvVolt[s.cfg.chKeyboardApprox]
    < keyVoltage s.cfg (resolvePressedKey s.cfg s.env.keys))

/-- The value of a status signal (43_keyboard.md rule R156). -/
def State.signal (s : State) : Signal → Bool
  | .kbdCmp => s.kbdCmp
  | .peaked c => s.peaked c
  | .lfoPhase => s.lfoPhase
  | .octaveHi => s.octaveHi
  | .extTrigger => s.env.trigger
  | .zero => false
  | .one => true

/-- The keyboard/status byte (30_encoding.md rule R70, 43_keyboard.md rule R156). -/
def State.statusByte (s : State) : Byte :=
  byteOf (fun i => xor (s.signal s.cfg.statusMap[i].signal) s.cfg.statusMap[i].inverted)

/-- The octave latch's transition (44_panel.md rule R175). -/
def octaveNext (set reset before : Bool) : Bool :=
  if set && !reset then true
  else if reset && !set then false
  else before

/-- The encoder's direction with wrap detection (44_panel.md rule R178). -/
def encoderDirection (oldPos newPos : EncPos) : EncDir :=
  let top : Nat := Config.encPositions - Config.encGuard
  if top ≤ oldPos.val ∧ newPos.val < Config.encGuard then .inc
  else if oldPos.val < Config.encGuard ∧ top ≤ newPos.val then .dec
  else if oldPos.val < newPos.val then .inc
  else .dec

end Sys2Proof.Machine
end

