-- ==== Sys2Proof/Machine/CvStore.lean ====
section
/-! DEFINITION. The CV store's operation, CVW (40_cv_store.md). -/

namespace Sys2Proof.Machine

/-- The wait states of a CV write: one debit of `WS_SETTLE + WS_HOLD` cycles, unless the access is a
probe (40_cv_store.md rules R92, R97). -/
def State.debitWaitStates (s : State) (probe : Bool) : State :=
  if probe then s else s.emit (.adjustCycleBudget (-(Config.wsSettle + Config.wsHold : Nat)))

/-- What a changed write dispatches to (40_cv_store.md rule R96). -/
def State.dispatchCv (s : State) (ch : Fin Config.cvChannels) (v : Volts) : State :=
  match chanClass s.cfg ch with
  | .egRate c => s.emit (.setAnalogInput (s.cfg.solverInRate.get c) v)
  | .lfoRate => s.emit (.setAnalogInput s.cfg.solverInLfoRate v)
  | .egLevel c => s.scheduleNow (.egrc c)
  | .plain => s

/-- The store part of CVW: the redundancy test, the store and the dispatch (40_cv_store.md rules
R93, R95, R96). -/
def State.writeCv (s : State) (ch : Fin Config.cvChannels) (data : Byte) : State :=
  if voltage data = s.cvVolt[ch] then s
  else (s.storeCv ch data).dispatchCv ch (voltage data)

/-- `CVW` (40_cv_store.md rule R90): debit, range test, compare, store, dispatch. The field `mirror`
is ignored. -/
def execCvw (_mirror : BitVec 3) (entry : BitVec 5) (data : Byte) (probe : Bool) (s : State) :
    Host.Outcome State Fault Refusal :=
  let s1 := s.debitWaitStates probe
  match channelOf entry with
  | none => .next s1
  | some ch => .next (s1.writeCv ch data)

end Sys2Proof.Machine
end

