-- ==== Sys2Proof/Machine/Envelope.lean ====
section
/-! DEFINITION. The envelope-generator drivers' operations, EGNOTE and EGRC (41_envelope.md). -/

namespace Sys2Proof.Machine

/-- `EGNOTE c, value` (41_envelope.md rule R110): the value is stored whatever its sign, and one
recompute is deferred. -/
def execEgnote (c : Contour) (value : Amps) (s : State) : Host.Outcome State Fault Refusal :=
  .next (({ s with egCurrent := s.egCurrent.set c value }).scheduleNow (.egrc c))

/-- `egPush(c, R, T)` (41_envelope.md rule R114). -/
def State.egPush (s : State) (c : Contour) (r : Ohms) (t : Volts) : State :=
  ({ s with egR := s.egR.set c (some r), egTarget := s.egTarget.set c (some t) }).emitAll
    [.setResistance (s.cfg.solverRc.get c) r, .setTargetVoltage (s.cfg.solverRc.get c) t]

/-- `EGRC c` (41_envelope.md rule R112): skipped with a log while the stored current is not
positive. -/
def execEgrc (c : Contour) (s : State) : Host.Outcome State Fault Refusal :=
  let current := s.egCurrent.get c
  if current ≤ 0 then .next (s.emit .log)
  else .next (s.egPush c (egResistance s.cfg c current) (egTargetVoltage s.cfg c (s.levelCv c)))

end Sys2Proof.Machine
end

