-- ==== Sys2Proof/Machine/Keyboard.lean ====
section
/-! DEFINITION. The keyboard/status read, KBDR (43_keyboard.md). -/

namespace Sys2Proof.Machine

/-- `KBDR` (43_keyboard.md rule R156): it returns the status byte and changes nothing; a probe makes
no difference. -/
def execKbdr (_probe : Bool) (s : State) : Host.Outcome State Fault Refusal :=
  .next (s.respond s.statusByte)

end Sys2Proof.Machine
end

