-- ==== Sys2Proof/Machine/Lfo.lean ====
section
/-! DEFINITION. The LFO rate-controller's operations, LFONOTE, LFORC and LFOTICK (42_lfo.md). -/

namespace Sys2Proof.Machine

/-- `LFONOTE value` (42_lfo.md rule R130). -/
def execLfonote (value : Amps) (s : State) : Host.Outcome State Fault Refusal :=
  .next (({ s with lfoCurrent := value }).scheduleNow .lforc)

/-- `LFORC` (42_lfo.md rules R131 to R134): re-armed with the part of the half-cycle still to come
scaled into the new half-period, or disarmed when the current is not positive. -/
def execLforc (s : State) : Host.Outcome State Fault Refusal :=
  if 0 < s.lfoCurrent then
    let tHalf := lfoHalfPeriod s.cfg s.lfoCurrent
    .next (({ s with lfoHalf := some tHalf }).armTimer (s.now + tHalf * s.timerFraction) tHalf)
  else .next s.disarmTimer

/-- `LFOTICK` (42_lfo.md rule R138): the phase flips and the LED shows its inverse. -/
def execLfotick (s : State) : Host.Outcome State Fault Refusal :=
  .next (({ s with lfoPhase := !s.lfoPhase }).emit (.led .lfo s.lfoPhase))

end Sys2Proof.Machine
end

