-- ==== Sys2Proof/Machine/Outputs.lean ====
section
/-! DEFINITION. The targets without a component of their own: the displays EDW and PDW, the output
latches OLW, and the battery-backed memory window NVR and NVW (45_dispatcher.md sections 2 to 4). -/

namespace Sys2Proof.Machine

/-- `EDW data` (45_dispatcher.md rule R195). -/
def execEdw (data : Byte) (_probe : Bool) (s : State) : Host.Outcome State Fault Refusal :=
  .next (({ s with editDisplay := data }).emitAll (displayCalls s.cfg .edit data))

/-- `PDW data` (45_dispatcher.md rule R197). -/
def execPdw (data : Byte) (_probe : Bool) (s : State) : Host.Outcome State Fault Refusal :=
  .next (({ s with programDisplay := data }).emitAll (displayCalls s.cfg .program data))

/-- `OLW k, data` (45_dispatcher.md rule R198). No board maps an address to a latch it does not have
(log entry 24); there the write changes nothing. -/
def execOlw (k : Nat) (data : Byte) (_probe : Bool) (s : State) :
    Host.Outcome State Fault Refusal :=
  .next (({ s with outLatch := s.outLatch.set k data }).emitAll (latchCallsAt s.cfg k data))

/-- `NVR off` (45_dispatcher.md rule R199): forwarded with the flag; the external memory answers. -/
def execNvr (off : Nat) (probe : Bool) (s : State) : Host.Outcome State Fault Refusal :=
  .next ((s.respond (s.nvram.read off)).emit (.nvramRead off probe))

/-- `NVW off, data` (45_dispatcher.md rule R199): forwarded with the flag; the external memory
stores the byte. -/
def execNvw (off : Nat) (data : Byte) (probe : Bool) (s : State) :
    Host.Outcome State Fault Refusal :=
  .next (({ s with nvram := s.nvram.write off data }).emit (.nvramWrite off data probe))

end Sys2Proof.Machine
end

