-- ==== Sys2Proof/Machine/Panel.lean ====
section
/-! DEFINITION. The front panel's operations, ROWW, BTNR, OCTCHG, ENCMOV and ENCR (44_panel.md). -/

namespace Sys2Proof.Machine

/-- `ROWW data` (44_panel.md rules R170, R171): under probe too. -/
def execRoww (data : Byte) (_probe : Bool) (s : State) : Host.Outcome State Fault Refusal :=
  .next { s with rowLatch := rowField data }

/-- `BTNR grp` (44_panel.md rule R172). -/
def execBtnr (grp : ColGroup) (_probe : Bool) (s : State) : Host.Outcome State Fault Refusal :=
  .next (s.respond (columnByte s.rowLatch (s.env.buttons grp)))

/-- `OCTCHG raw` (44_panel.md rules R175, R177): the transition, then the LED projection, always. -/
def execOctchg (raw : Byte) (s : State) : Host.Outcome State Fault Refusal :=
  let after := octaveNext (octSet s.cfg raw) (octReset s.cfg raw) s.octaveHi
  .next (({ s with octaveHi := after }).emitAll (octaveCalls after))

/-- `ENCMOV oldPos, newPos` (44_panel.md rules R178, R180). -/
def execEncmov (oldPos newPos : EncPos) (s : State) : Host.Outcome State Fault Refusal :=
  .next (({ s with encDir := encoderDirection oldPos newPos }).setInterruptLine true)

/-- `ENCR` (44_panel.md rule R181): it returns the last direction and, unless it is a probe, clears
the interrupt line. -/
def execEncr (probe : Bool) (s : State) : Host.Outcome State Fault Refusal :=
  let s1 := s.respond (encoderByte s.cfg s.encDir)
  .next (if probe then s1 else s1.setInterruptLine false)

end Sys2Proof.Machine
end

