-- ==== Sys2Proof/Machine/Power.lean ====
section
/-! DEFINITION. Power-on, RESET (70_reset_and_hazards.md). -/

namespace Sys2Proof.Machine

/-- `RESET` (70_reset_and_hazards.md rules R240, R241): every register of the block at its reset
value, the unspecified ones at fresh free values, and no outbound call. What is outside the block
stays: the board's parameters, the environment and its actions to come, and the battery-backed
memory (60_exceptions.md rule R229; log entry 18). -/
def execReset (s : State) : Host.Outcome State Fault Refusal :=
  .next { s with
    cvRaw := Vector.replicate Config.cvChannels Config.cvReset
    cvVolt := Vector.replicate Config.cvChannels 0
    egCurrent := ⟨0, 0⟩
    egR := ⟨none, none⟩
    egTarget := ⟨none, none⟩
    lfoCurrent := 0
    lfoHalf := none
    lfoPhase := false
    lfoTimer := .disarmed
    rowLatch := Config.freeRowLatch s.draws
    octaveHi := Config.octaveReset
    encDir := Config.freeEncDir s.draws
    irq := false
    editDisplay := Config.freeDisplay s.draws .edit
    programDisplay := Config.freeDisplay s.draws .program
    outLatch := (List.range s.cfg.outLatchCount).map (Config.freeOutLatch s.draws)
    now := 0
    queue := []
    trace := []
    readData := none
    stamp := 0 }

end Sys2Proof.Machine
end

