-- ==== Sys2Proof/Machine/Dispatch.lean ====
section
/-! DEFINITION. The meaning of each operation (30_encoding.md rule R60), one arm per constructor. -/

namespace Sys2Proof.Machine

/-- One operation, handled to completion (00_scope.md rule R2). -/
def exec (i : Instr) (s : State) : Host.Outcome State Fault Refusal :=
  match i with
  | .cvw mirror entry data probe => Sys2Proof.Machine.execCvw mirror entry data probe s
  | .roww data probe => Sys2Proof.Machine.execRoww data probe s
  | .btnr grp probe => Sys2Proof.Machine.execBtnr grp probe s
  | .kbdr probe => Sys2Proof.Machine.execKbdr probe s
  | .encr probe => Sys2Proof.Machine.execEncr probe s
  | .edw data probe => Sys2Proof.Machine.execEdw data probe s
  | .pdw data probe => Sys2Proof.Machine.execPdw data probe s
  | .olw k data probe => Sys2Proof.Machine.execOlw k data probe s
  | .nvr off probe => Sys2Proof.Machine.execNvr off probe s
  | .nvw off data probe => Sys2Proof.Machine.execNvw off data probe s
  | .egnote c value => Sys2Proof.Machine.execEgnote c value s
  | .egrc c => Sys2Proof.Machine.execEgrc c s
  | .lfonote value => Sys2Proof.Machine.execLfonote value s
  | .lforc => Sys2Proof.Machine.execLforc s
  | .lfotick => Sys2Proof.Machine.execLfotick s
  | .octchg raw => Sys2Proof.Machine.execOctchg raw s
  | .encmov oldPos newPos => Sys2Proof.Machine.execEncmov oldPos newPos s
  | .reset => Sys2Proof.Machine.execReset s

end Sys2Proof.Machine
end

