-- ==== Sys2Proof/Machine/Deliver.lean ====
section
/-! DEFINITION. How the environment agents' actions reach the block (00_scope.md rule R2): the
decode of what is delivered, the accesses it ignores, and the scheduler's delivery of queue entries
and timer firings (20_memory.md rule R53). -/

namespace Sys2Proof.Machine

/-- The state after something the block does not decode (30_encoding.md rule R78): nothing changes,
and a read returns a free byte. -/
def State.ignore (s : State) : Reject → State
  | .ioRead => s.respond (Config.freeByte s.draws)
  | .unmappedRead => s.respond (Config.freeByte s.draws)
  | .unmappedWrite => s
  | .foreignNotification => s
  | .truncatedFrame => s
  | .reservedFrame => s

/-- What is delivered is decoded, and the operation it selects runs. -/
def receive (w : Wire) (s : State) : Host.Outcome State Fault Refusal :=
  match decode s.cfg w with
  | .ok i => exec i s
  | .error r => .next (s.ignore r)

/-! ### The scheduler -/

/-- The item the scheduler would deliver next: the first queue entry, or the timer's firing. -/
inductive Pending
  | entry (e : QueueEntry)
  | firing (next period : Seconds) (stamp : Nat)
  deriving DecidableEq, Repr

/-- The time at which a pending item is due. -/
def Pending.time : Pending → Seconds
  | .entry e => e.time
  | .firing next _ _ => next

/-- What a pending item delivers. -/
def Pending.wire : Pending → Wire
  | .entry e => .queued e.op
  | .firing _ _ _ => .timer

/-- Whether a firing at `next`, armed with order number `stamp`, comes before entry `e`: by time,
and among equal times by which was armed or scheduled first (20_memory.md rule R53). -/
def firingFirst (next : Seconds) (stamp : Nat) (e : QueueEntry) : Bool :=
  decide (next < e.time) || (decide (next = e.time) && decide (stamp < e.stamp))

/-- The earliest pending item, if any (20_memory.md rule R53). -/
def State.earliest (s : State) : Option Pending :=
  match s.queue, s.lfoTimer with
  | [], .disarmed => none
  | [], .armed next period stamp => some (.firing next period stamp)
  | e :: _, .disarmed => some (.entry e)
  | e :: _, .armed next period stamp =>
    if firingFirst next stamp e then some (.firing next period stamp) else some (.entry e)

/-- The earliest pending item, if it is due by time `t`. -/
def State.dueBy (s : State) (t : Seconds) : Option Pending :=
  s.earliest.filter (fun p => decide (p.time ≤ t))

/-- The state in which a pending item's operation runs: `now` at its time, the entry out of the
queue, or the timer's next firing one period on (20_memory.md rule R53, 42_lfo.md rule R137). -/
def State.takePending (s : State) : Pending → State
  | .entry e => ({ s with queue := s.queue.tail }).moveTo e.time
  | .firing next period stamp =>
    ({ s with lfoTimer := .armed (next + period) period stamp }).moveTo next

/-- Virtual time moves to `t`, or to the earliest pending item's time where that comes sooner, and the
item stays pending: `now` may not pass it, and an agent may issue its operation at its time ahead of
it (20_memory.md rule R53, U6; log entry 28). -/
def State.elapse (s : State) (t : Seconds) : State :=
  match s.dueBy t with
  | some p => s.moveTo p.time
  | none => s.moveTo t

/-- The scheduler delivers a pending item. -/
def deliverPending (p : Pending) (s : State) : Host.Outcome State Fault Refusal :=
  receive p.wire (s.takePending p)

/-! ### The agents' actions -/

/-- The state at the start of a step: the draw number moves on, so that every step's free values are
its own (log entry 4). -/
def State.startStep (s : State) : State := { s with draws := s.draws + 1 }

/-- The state with the first action of the inbox taken. -/
def State.takeInput (s : State) : State := { s with inbox := s.inbox.tail }

/-- One step for the action `a` at the head of the inbox. `run` and `advance` deliver one due item a
step and stay at the head until none is left (30_encoding.md rule R82; log entry 14). -/
def act (a : Input) (s : State) : Host.Outcome State Fault Refusal :=
  match a with
  | .bus t => receive (.bus t) s.takeInput
  | .notify id value => receive (.notify id value) s.takeInput
  | .octave raw => receive (.octave raw) s.takeInput
  | .encoder oldPos newPos => receive (.encoder oldPos newPos) s.takeInput
  | .powerOn => receive .powerOn s.takeInput
  | .deliver =>
    match s.earliest with
    | some p => deliverPending p s.takeInput
    | none => .next s.takeInput
  | .run =>
    match s.dueBy s.now with
    | some p => deliverPending p s
    | none => .next s.takeInput
  | .advance t =>
    match s.dueBy t with
    | some p => deliverPending p s
    | none => .next (s.takeInput.moveTo t)
  | .elapse t => .next (s.takeInput.elapse t)
  | .set change => .next { s.takeInput with env := s.env.apply change }

/-- The machine's step: the next action of the environment, or nothing when there is none, for the
block never steps on its own (00_scope.md rule R2; log entry 15). -/
def stepOnce (s : State) : Host.Outcome State Fault Refusal :=
  match s.inbox with
  | [] => .next s
  | a :: _ => act a s.startStep

/-- `s` with the bus transaction of frame `w` as the next action; a word that is no frame places
nothing. -/
def State.withFrame (s : State) (w : BitVec 32) : State :=
  match decodeFrame w with
  | .ok t => { s with inbox := .bus t :: s.inbox }
  | .error _ => s

end Sys2Proof.Machine
end

