-- ==== Sys2Proof/Machine/Step.lean ====
section
/-! DEFINITION. The step, and how an operation given as a word is placed where the step takes its
next one. -/

namespace Sys2Proof.Machine

/-- One step of the machine. -/
def step (s : State) : Host.Outcome State Fault Refusal := stepOnce s

/-- `s` with the bus transaction whose `nbits` bits are `w`, the bits above them 0, at the head of
the inbox, where the next step takes it (log entry 16). -/
def State.withFetchWord (s : State) (nbits w : Nat) : State :=
  s.withFrame (BitVec.ofNat 32 (w % 2 ^ nbits))

end Sys2Proof.Machine
end

