-- ==== Sys2Proof/Safety.lean ====
section
/-! DEFINITION. What the claims call a sound state, and the vocabulary of their frames. -/

namespace Sys2Proof.Machine

/-- The invariant of the CV store (10_state.md rule R11). -/
def CvStoreSound (s : State) : Prop :=
  ∀ (i : Nat) (h : i < Config.cvChannels), s.cvVolt[i] = 10 * ((s.cvRaw[i]).toNat : Rat) / 255

/-- The event queue as the scheduler keeps it (10_state.md rule R24, 20_memory.md rules R49, R53):
every entry is for the present instant, since time never passes a pending item, and the order
numbers rise. -/
def QueueSound (s : State) : Prop :=
  (∀ e ∈ s.queue, e.time = s.now) ∧ (s.queue.map (·.stamp)).Pairwise (· < ·)
    ∧ ∀ e ∈ s.queue, e.stamp < s.stamp

/-- The LFO timer (10_state.md rule R15, 42_lfo.md rules R135, R136, R139): an armed timer fires
neither in the past nor later than one period from now, its period is positive and is the running
half-period. -/
def TimerSound (s : State) : Prop :=
  match s.lfoTimer with
  | .disarmed => True
  | .armed next period stamp =>
    s.now ≤ next ∧ next ≤ s.now + period ∧ 0 < period ∧ s.lfoHalf = some period ∧ stamp < s.stamp

/-- The values last pushed to the solver (41_envelope.md rules R113, R114): a pushed resistance is
positive, and a contour has a pushed resistance just when it has a pushed target. -/
def PushSound (s : State) : Prop :=
  ∀ c : Contour, (∀ r, s.egR.get c = some r → 0 < r)
    ∧ ((s.egR.get c).isSome = (s.egTarget.get c).isSome)

/-- The invariant of the machine. -/
structure Inv (s : State) : Prop where
  config : s.cfg.wf = true
  cvStore : CvStoreSound s
  push : PushSound s
  halfPositive : ∀ h, s.lfoHalf = some h → 0 < h
  timer : TimerSound s
  queue : QueueSound s
  timePositive : 0 ≤ s.now
  latches : s.outLatch.length = s.cfg.outLatchCount
  memory : s.nvram.wf = true

/-- `t` agrees with `s` in everything that is not a register of the block: the parameters, the
environment and its actions, and the draw number. -/
def SameOutside (s t : State) : Prop :=
  t.cfg = s.cfg ∧ t.env = s.env ∧ t.inbox = s.inbox ∧ t.draws = s.draws

/-- The debit of a CV write: one call, unless it is a probe (40_cv_store.md rules R92, R97). -/
def debitCalls (probe : Bool) : List OutCall := if probe then [] else [.adjustCycleBudget (-32)]

/-- `t`'s queue is `s`'s with one entry more, for `op` at the time of `s`: behind every entry of
that time or earlier, ahead of the first later one (20_memory.md rule R49). -/
def DeferredNow (s t : State) (op : Deferred) : Prop :=
  ∃ front back, s.queue = front ++ back ∧ t.queue = front ++ ⟨s.now, s.stamp, op⟩ :: back
    ∧ (∀ x ∈ front, x.time ≤ s.now) ∧ (∀ x ∈ back.head?, s.now < x.time)
    ∧ t.stamp = s.stamp + 1

/-- Key index `k` is pressed: it is bit `b` of a group's reading, within the group's width, and `k`
counts from the groups below (43_keyboard.md rule R150). -/
def Pressed (cfg : Config) (keys : Vector Nat Config.kbdGroups) (k : Nat) : Prop :=
  ∃ (g : Fin Config.kbdGroups) (b : Nat), b < cfg.kbdGroupWidth[g] ∧ (keys[g]).testBit b = true
    ∧ k = (cfg.kbdGroupWidth.toList.take g).sum + b

/-- The level the calls leave on the interrupt line, deasserted before the first. -/
def lineLevel (calls : List OutCall) : Bool :=
  calls.foldl (fun level c => match c with
    | .setInterruptLine b => b
    | _ => level) false

/-- The sum of the cycle-budget adjustments among the calls. -/
def budgetSum (calls : List OutCall) : Int :=
  (calls.map (fun c => match c with
    | .adjustCycleBudget d => d
    | _ => 0)).sum

/-- Operations one after the other, each to completion (20_memory.md rule R48). -/
def execAll : List Instr → State → Host.Outcome State Fault Refusal
  | [], s => .next s
  | i :: is, s =>
    match exec i s with
    | .next t => execAll is t
    | .fault f => .fault f
    | .refused r => .refused r

end Sys2Proof.Machine
end

