-- ==== Sys2Proof/Certificates/Slice0/Obligations.lean ====
section
/-! DEFINITION. The statements for the provers, from the numbered rules of spec/. Where a rule
carries a decision mark of the spec's own, the docstring names the decision. A frame is written
`t = { s with f := t.f, … }`: every field of the state but those named is unchanged, the
battery-backed memory with every byte of it among them. -/

open Sys2Proof Sys2Proof.Machine

/-! ### CV store -/

/-- Rule R91: the conversion, its lowest terms, its monotonicity and the values the rule lists. -/
def Obligations.VoltageIsTenTimesByteOver255 : Prop :=
  (∀ b : Byte, voltage b = 10 * (b.toNat : Rat) / 255 ∧ voltage b = 2 * (b.toNat : Rat) / 51)
  ∧ (∀ b b' : Byte, b.toNat ≤ b'.toNat → voltage b ≤ voltage b')
  ∧ voltage 0 = 0 ∧ voltage 1 = 2 / 51 ∧ voltage 51 = 2 ∧ voltage 127 = 254 / 51
  ∧ voltage 128 = 256 / 51 ∧ voltage 255 = 10

/-- Rules R95, R97: a write in range that is not redundant stores the byte and its voltage together, under
probe too, keeps the store's invariant, and touches no other channel; the rest of its frame. -/
def Obligations.CvwChangedWriteStoresByteAndVoltage : Prop :=
  ∀ (s : State) (m : BitVec 3) (e : BitVec 5) (d : Byte) (p : Bool)
    (_ : e.toNat < Config.cvChannels),
    10 * (d.toNat : Rat) / 255 ≠ s.cvVolt[e.toNat] →
    ∃ t, exec (.cvw m e d p) s = .next t
      ∧ t.cvRaw[e.toNat] = d ∧ t.cvVolt[e.toNat] = 10 * (d.toNat : Rat) / 255
      ∧ (CvStoreSound s → CvStoreSound t)
      ∧ (∀ (j : Nat) (_ : j < Config.cvChannels), j ≠ e.toNat →
          t.cvRaw[j] = s.cvRaw[j] ∧ t.cvVolt[j] = s.cvVolt[j])
      ∧ t = { s with cvRaw := t.cvRaw, cvVolt := t.cvVolt, trace := t.trace, queue := t.queue,
                     stamp := t.stamp }

/-- Rule R93: in a store that keeps its invariant, a write does nothing but debit just when it writes
the byte the channel holds. That the debit comes first, and for redundant writes too, is decisions
D3 and D5; the equivalence with the raw byte is decision D6. -/
def Obligations.CvwRedundantWriteOnlyDebits : Prop :=
  ∀ (s : State) (m : BitVec 3) (e : BitVec 5) (d : Byte) (p : Bool)
    (_ : e.toNat < Config.cvChannels), CvStoreSound s →
    (exec (.cvw m e d p) s = .next { s with trace := s.trace ++ debitCalls p }
      ↔ d = s.cvRaw[e.toNat])

/-- Rule R77: an I/O write to entries 24..31 selects no channel; it changes no state, dispatches
nothing, and is still charged unless it is a probe (that charge is decision D3). -/
def Obligations.UnconnectedEntryOnlyDebits : Prop :=
  ∀ (s : State) (addr : Addr) (d : Byte) (p : Bool), 24 ≤ addr.toNat % 32 →
    ∃ i, decodeBus s.cfg (.write .io addr d p) = .ok i
      ∧ exec i s = .next { s with trace := s.trace ++ debitCalls p }

/-- Rules R92, R96: what a changed write dispatches, by the channel's class. The single debit call
and its sign are decisions D3 and D4, the forward as a `setAnalogInput` call is decision D7. -/
def Obligations.CvwDispatchesByChannelClass : Prop :=
  ∀ (s : State) (m : BitVec 3) (e : BitVec 5) (d : Byte) (p : Bool)
    (h : e.toNat < Config.cvChannels),
    10 * (d.toNat : Rat) / 255 ≠ s.cvVolt[e.toNat] →
    ∃ t, exec (.cvw m e d p) s = .next t ∧
      match chanClass s.cfg ⟨e.toNat, h⟩ with
      | .egRate c => t.queue = s.queue ∧ t.trace = s.trace ++ debitCalls p
          ++ [.setAnalogInput (s.cfg.solverInRate.get c) (10 * (d.toNat : Rat) / 255)]
      | .lfoRate => t.queue = s.queue ∧ t.trace = s.trace ++ debitCalls p
          ++ [.setAnalogInput s.cfg.solverInLfoRate (10 * (d.toNat : Rat) / 255)]
      | .egLevel c => DeferredNow s t (.egrc c) ∧ t.trace = s.trace ++ debitCalls p
      | .plain => t.queue = s.queue ∧ t.trace = s.trace ++ debitCalls p

/-- Rule R67 (decision D8): the classes of the seven named channels, on every board that meets the
constraints of 00_scope.md section 5.2. -/
def Obligations.NamedChannelsHaveTheirClasses : Prop :=
  ∀ cfg : Config, cfg.wf = true →
    (∀ c : Contour, chanClass cfg (cfg.chContourRate.get c) = .egRate c
      ∧ chanClass cfg (cfg.chContourLevel.get c) = .egLevel c)
    ∧ chanClass cfg cfg.chModRate = .lfoRate
    ∧ chanClass cfg cfg.chCutoffCoarse = .plain
    ∧ chanClass cfg cfg.chKeyboardApprox = .plain

/-- Rule R11: the store's invariant holds after reset and after every operation. -/
def Obligations.CvStoreInvariantHoldsAfterEveryOperation : Prop :=
  CvStoreSound State.reset
  ∧ ∀ (i : Instr) (s t : State), CvStoreSound s → exec i s = .next t → CvStoreSound t

/-- Rule R98 (4), derived there: the second of two identical writes only debits. -/
def Obligations.CvwTwiceLeavesTheStateOfOnce : Prop :=
  ∀ (s t : State) (m : BitVec 3) (e : BitVec 5) (d : Byte) (p : Bool),
    exec (.cvw m e d p) s = .next t →
    exec (.cvw m e d p) t = .next { t with trace := t.trace ++ debitCalls p }

/-- Rule R98 (5), derived there: over any sequence of CV writes the cycle budget loses exactly 32
cycles for each that is no probe, whatever the entries and data. -/
def Obligations.CvwSequenceDebits32CyclesEach : Prop :=
  ∀ (writes : List (BitVec 3 × BitVec 5 × Byte × Bool)) (s : State),
    ∃ t, execAll (writes.map (fun w => .cvw w.1 w.2.1 w.2.2.1 w.2.2.2)) s = .next t
      ∧ budgetSum t.trace
        = budgetSum s.trace - 32 * (writes.countP (fun w => !w.2.2.2) : Int)

/-! ### Envelope generators -/

/-- Rule R110 (decisions D9, D16): the value is stored whatever its sign, one recompute is deferred,
and the frame. -/
def Obligations.EgnoteStoresCurrentAndDefersRecompute : Prop :=
  ∀ (s : State) (c : Contour) (value : Amps),
    ∃ t, exec (.egnote c value) s = .next t
      ∧ t.egCurrent.get c = value
      ∧ (∀ c', c' ≠ c → t.egCurrent.get c' = s.egCurrent.get c')
      ∧ DeferredNow s t (.egrc c)
      ∧ t = { s with egCurrent := t.egCurrent, queue := t.queue, stamp := t.stamp }

/-- Rule R112: while the stored current is not positive a recompute logs and does nothing else (the
log's text is left out, decision D38, log entry 20). -/
def Obligations.EgrcSkipsNonPositiveCurrent : Prop :=
  ∀ (s : State) (c : Contour), s.egCurrent.get c ≤ 0 →
    exec (.egrc c) s = .next { s with trace := s.trace ++ [.log] }

/-- Rules R113, R114: with a positive current the resistance and the target are computed from the
current and from the level CV as it is now (decision D12), recorded and pushed, the resistance first
(decision D13); the frame. -/
def Obligations.EgrcPushesResistanceAndTarget : Prop :=
  ∀ (s : State) (c : Contour), 0 < s.egCurrent.get c →
    ∃ t, exec (.egrc c) s = .next t
      ∧ ∃ r v : Rat,
        r = 1 / (192 / 10 * s.egCurrent.get c * s.cfg.egDivMinus.get c)
        ∧ v = s.cvVolt[s.cfg.chContourLevel.get c] * s.cfg.egDivPlus.get c
            / s.cfg.egDivMinus.get c
        ∧ t.egR.get c = some r ∧ t.egTarget.get c = some v
        ∧ (∀ c', c' ≠ c → t.egR.get c' = s.egR.get c' ∧ t.egTarget.get c' = s.egTarget.get c')
        ∧ t = { s with egR := t.egR, egTarget := t.egTarget,
                       trace := s.trace ++ [.setResistance (s.cfg.solverRc.get c) r,
                         .setTargetVoltage (s.cfg.solverRc.get c) v] }

/-- Rule R119, derived there: the pushed resistance is positive and inversely proportional to the
current, the target is linear in the level byte and independent of the current, and a second
recompute leaves the same registers. -/
def Obligations.EgrcResistanceTimesCurrentIsConstant : Prop :=
  ∀ (s : State) (c : Contour), s.cfg.wf = true → CvStoreSound s → 0 < s.egCurrent.get c →
    ∃ t r, exec (.egrc c) s = .next t ∧ t.egR.get c = some r ∧ 0 < r
      ∧ r * s.egCurrent.get c = 1 / (192 / 10 * s.cfg.egDivMinus.get c)
      ∧ t.egTarget.get c = some (((s.cvRaw[s.cfg.chContourLevel.get c]).toNat : Rat) / 255
          * (10 * s.cfg.egDivPlus.get c / s.cfg.egDivMinus.get c))
      ∧ ∃ u, exec (.egrc c) t = .next u ∧ u.egR = t.egR ∧ u.egTarget = t.egTarget

/-- Rule R12: no operation on one contour reads or writes the other's registers. Whatever the other
contour's registers hold, the operation does the same and leaves them. -/
def Obligations.ContoursAreIndependent : Prop :=
  ∀ (s t : State) (c c' : Contour) (i : Instr) (x : Amps) (y : Option Ohms) (z : Option Volts),
    c' ≠ c → (i = .egrc c ∨ ∃ value, i = .egnote c value) → exec i s = .next t →
    t.egCurrent.get c' = s.egCurrent.get c' ∧ t.egR.get c' = s.egR.get c'
    ∧ t.egTarget.get c' = s.egTarget.get c'
    ∧ exec i { s with egCurrent := s.egCurrent.set c' x, egR := s.egR.set c' y,
                      egTarget := s.egTarget.set c' z }
      = .next { t with egCurrent := t.egCurrent.set c' x, egR := t.egR.set c' y,
                       egTarget := t.egTarget.set c' z }

/-! ### LFO -/

/-- Rule R130 (decision D16). -/
def Obligations.LfonoteStoresCurrentAndDefersRecompute : Prop :=
  ∀ (s : State) (value : Amps),
    ∃ t, exec (.lfonote value) s = .next t ∧ t.lfoCurrent = value ∧ DeferredNow s t .lforc
      ∧ t = { s with lfoCurrent := value, queue := t.queue, stamp := t.stamp }

/-- Rules R131 to R136: with a positive current the timer is armed with the new half-period, its
first firing after the part of the half-cycle still to come, scaled; the phase and everything else
stay (decisions D14, D15). -/
def Obligations.LforcArmsTimerWithScaledRemainder : Prop :=
  ∀ s : State, 0 < s.lfoCurrent →
    ∃ tHalf fraction : Rat,
      tHalf = 2 * s.cfg.lfoVPeak * s.cfg.lfoC / s.lfoCurrent
      ∧ (s.lfoTimer = .disarmed → fraction = 0)
      ∧ (∀ next period stamp, s.lfoTimer = .armed next period stamp →
          fraction = (next - s.now) / period)
      ∧ exec .lforc s = .next { s with
          lfoHalf := some tHalf
          lfoTimer := .armed (s.now + tHalf * fraction) tHalf s.stamp
          stamp := s.stamp + 1 }

/-- Rule R134 (decision D14): a current that is not positive disarms the timer; the half-period, the
phase and everything else stay, and nothing is logged. -/
def Obligations.LforcDisarmsTimerWithoutPositiveCurrent : Prop :=
  ∀ s : State, s.lfoCurrent ≤ 0 → exec .lforc s = .next { s with lfoTimer := .disarmed }

/-- Rule R139 (1) to (3), derived there: from every sound state with an armed timer, a recompute
keeps the share of the half-cycle still to come, fires within one new half-period, and leaves the
next firing where it was when the half-period does not change. -/
def Obligations.LforcKeepsPhaseContinuity : Prop :=
  ∀ (s : State) (next period : Seconds) (stamp : Nat), Inv s → 0 < s.lfoCurrent →
    s.lfoTimer = .armed next period stamp →
    ∃ t next' tHalf, exec .lforc s = .next t ∧ t.lfoTimer = .armed next' tHalf s.stamp
      ∧ tHalf = 2 * s.cfg.lfoVPeak * s.cfg.lfoC / s.lfoCurrent
      ∧ s.now ≤ next' ∧ next' ≤ s.now + tHalf
      ∧ (next' - s.now) / tHalf = (next - s.now) / period
      ∧ (tHalf = period → next' = next)
      ∧ t.lfoPhase = s.lfoPhase

/-- Rule R138: a tick flips the phase and drives the LED with the inverse of the new phase; it does
not read the current nor touch the timer, and only a firing delivers it. -/
def Obligations.LfotickTogglesPhaseAndLed : Prop :=
  (∀ s : State, ∃ t, exec .lfotick s = .next t ∧ t.lfoPhase = (!s.lfoPhase)
    ∧ t = { s with lfoPhase := t.lfoPhase, trace := s.trace ++ [.led .lfo (!t.lfoPhase)] }
    ∧ ∀ x : Amps, exec .lfotick { s with lfoCurrent := x } = .next { t with lfoCurrent := x })
  ∧ ∀ (cfg : Config) (w : Wire), decode cfg w = .ok .lfotick → w = .timer

/-- Rule R137 (decision D15): when the scheduler delivers the firing, time is the firing's, the next
firing is one period on with the same period, and one tick runs. -/
def Obligations.FiringTicksAndMovesOnePeriodOn : Prop :=
  ∀ (s : State) (next period : Seconds) (stamp : Nat) (rest : List Input),
    s.inbox = .deliver :: rest → s.queue = [] → s.lfoTimer = .armed next period stamp →
    s.now ≤ next →
    ∃ t, step s = .next t ∧ t.now = next ∧ t.lfoTimer = .armed (next + period) period stamp
      ∧ t.lfoPhase = (!s.lfoPhase) ∧ t.trace = s.trace ++ [.led .lfo s.lfoPhase]
      ∧ t.inbox = rest

/-! ### Keyboard and status byte -/

/-- Rule R156 (decisions D22, D23): the byte a status read returns, bit by bit; nothing else changes
and a probe makes no difference. -/
def Obligations.KbdrReturnsMappedSignals : Prop :=
  ∀ (s : State) (p : Bool), ∃ t b, exec (.kbdr p) s = .next t
    ∧ t = { s with readData := some b }
    ∧ ∀ i : Fin 8, b.getLsbD i = xor s.cfg.statusMap[i].inverted
        (match s.cfg.statusMap[i].signal with
          | .kbdCmp => decide (s.cvVolt[s.cfg.chKeyboardApprox]
              < keyVoltage s.cfg (resolvePressedKey s.cfg s.env.keys))
          | .peaked c => s.peaked c
          | .lfoPhase => s.lfoPhase
          | .octaveHi => s.octaveHi
          | .extTrigger => s.env.trigger
          | .zero => false
          | .one => true)

/-- Rule R116: the rising threshold lies above the falling one; strictly above the rising threshold
the detector is peaked and strictly below the falling one it is not, whatever the trend. The last
clause is rule R117's, decision D10 of the spec (log entry 25; U3 allows a draw instead): in the
closed band between the thresholds the answer is decided by whether the voltage falls, so that a flat
and a rising trend give one answer. -/
def Obligations.PeakedOutsideBandIgnoresTrend : Prop :=
  ∀ (s : State) (c : Contour), s.cfg.wf = true →
    s.cfg.peakVFall.get c < s.cfg.peakVRise.get c
    ∧ (s.cfg.peakVRise.get c < s.queryVoltage (s.cfg.solverRc.get c) s.now → s.peaked c = true)
    ∧ (s.queryVoltage (s.cfg.solverRc.get c) s.now < s.cfg.peakVFall.get c → s.peaked c = false)
    ∧ ∀ v, s.cfg.peakVFall.get c ≤ v → v ≤ s.cfg.peakVRise.get c → ∀ vf vf',
        (vf < v ↔ vf' < v) →
        peakedFrom (s.cfg.peakVRise.get c) (s.cfg.peakVFall.get c) v vf
          = peakedFrom (s.cfg.peakVRise.get c) (s.cfg.peakVFall.get c) v vf'

/-- Rule R117 (decision D10): in the closed band the detector is peaked just when the voltage 1 ms
ahead is lower and the present one is above the falling threshold. -/
def Obligations.PeakedInsideBandFollowsTrend : Prop :=
  ∀ (s : State) (c : Contour) (v vf : Volts), s.cfg.wf = true →
    v = s.queryVoltage (s.cfg.solverRc.get c) s.now →
    vf = s.queryVoltage (s.cfg.solverRc.get c) (s.now + 1 / 1000) →
    s.cfg.peakVFall.get c ≤ v → v ≤ s.cfg.peakVRise.get c →
    (s.peaked c = true ↔ vf < v ∧ s.cfg.peakVFall.get c < v)

/-- Rule R151, with the numbering of rule R150 (decision D21): the lowest pressed key wins, bits at
or above a group's width are not examined, and there is none just when no key is pressed. -/
def Obligations.LowestPressedKeyWins : Prop :=
  ∀ (cfg : Config) (keys : Vector Nat Config.kbdGroups),
    (∀ k, resolvePressedKey cfg keys = some k
      ↔ Pressed cfg keys k ∧ ∀ k' < k, ¬ Pressed cfg keys k')
    ∧ (resolvePressedKey cfg keys = none ↔ ∀ k, ¬ Pressed cfg keys k)

/-- Rules R152 and R157, derived there: no key gives 0 V; the ladder is affine in the key, strictly
rising when `KBD_VREF` is positive, and its top key gives `KBD_VREF * KBD_DIV2`. -/
def Obligations.KeyVoltageIsAffineInKey : Prop :=
  ∀ cfg : Config, cfg.wf = true →
    keyVoltage cfg none = 0
    ∧ (∀ key < cfg.kbdTotalKeys, keyVoltage cfg (some key)
        = cfg.kbdVref * cfg.kbdDiv2 * (cfg.kbdRA + key * cfg.kbdRKey)
          / (cfg.kbdRA + ((cfg.kbdTotalKeys : Rat) - 1) * cfg.kbdRKey))
    ∧ keyVoltage cfg (some (cfg.kbdTotalKeys - 1)) = cfg.kbdVref * cfg.kbdDiv2
    ∧ (0 < cfg.kbdVref → ∀ a b, a < b → b < cfg.kbdTotalKeys →
        keyVoltage cfg (some a) < keyVoltage cfg (some b))

/-! ### Front panel -/

/-- Rule R68: the row latch takes the low six bits of the byte and ignores the two above; every byte
is accepted; a bit of 0 selects its row, as the next column read shows. -/
def Obligations.RowwStoresLowSixBitsActiveLow : Prop :=
  ∀ (s : State) (d : Byte) (p : Bool),
    ∃ t, exec (.roww d p) s = .next t
      ∧ (∀ r : Fin Config.rowBits, t.rowLatch.getLsbD r = d.getLsbD r)
      ∧ (∀ d' : Byte, d'.toNat % 64 = d.toNat % 64 → exec (.roww d' p) s = .next t)
      ∧ t = { s with rowLatch := t.rowLatch }
      ∧ ∀ (grp : ColGroup) (q : Bool), ∃ u b, exec (.btnr grp q) t = .next u ∧ u.readData = some b
        ∧ ∀ j < 6, (b.getLsbD j = true ↔ ∃ r : Fin Config.rowBits,
            d.getLsbD r = false ∧ ((s.env.buttons grp)[r]).getLsbD j = false)

/-- Rule R69: the column byte, bit by bit; nothing else changes. -/
def Obligations.BtnrReturnsColumnsOfActiveRows : Prop :=
  ∀ (s : State) (grp : ColGroup) (p : Bool),
    ∃ t b, exec (.btnr grp p) s = .next t ∧ t = { s with readData := some b }
      ∧ (∀ j < 6, (b.getLsbD j = true ↔ ∃ r : Fin Config.rowBits,
          s.rowLatch.getLsbD r = false ∧ ((s.env.buttons grp)[r]).getLsbD j = false))
      ∧ b.getLsbD 6 = true ∧ b.getLsbD 7 = true

/-- Rule R175 (the readings that assert Set and Reset are the board's, decision D20; so is the LED
projection of rule R177): Set alone gives HIGH, Reset alone LOW, both or neither the state before;
the two LEDs are driven every time; the frame. -/
def Obligations.OctchgFollowsSetAndReset : Prop :=
  ∀ (s : State) (raw : Byte),
    ∃ t, exec (.octchg raw) s = .next t
      ∧ (raw ∈ s.cfg.octSetReadings → raw ∉ s.cfg.octResetReadings → t.octaveHi = true)
      ∧ (raw ∉ s.cfg.octSetReadings → raw ∈ s.cfg.octResetReadings → t.octaveHi = false)
      ∧ ((raw ∈ s.cfg.octSetReadings ↔ raw ∈ s.cfg.octResetReadings) → t.octaveHi = s.octaveHi)
      ∧ t = { s with octaveHi := t.octaveHi,
                     trace := s.trace ++ [.led .octaveHi t.octaveHi, .led .octaveLo (!t.octaveHi)] }

/-- Rule R178 (the band edges are decision D19): the direction of a movement with wrap detection,
the interrupt, and the frame. -/
def Obligations.EncmovDerivesDirectionWithWrap : Prop :=
  ∀ (s : State) (o n : EncPos),
    ∃ t, exec (.encmov o n) s = .next t
      ∧ (230 ≤ o.val → n.val < 10 → t.encDir = .inc)
      ∧ (o.val < 10 → 230 ≤ n.val → t.encDir = .dec)
      ∧ (¬ (230 ≤ o.val ∧ n.val < 10) → ¬ (o.val < 10 ∧ 230 ≤ n.val) →
          (t.encDir = .inc ↔ o.val < n.val))
      ∧ t = { s with encDir := t.encDir, irq := true,
                     trace := s.trace ++ [.setInterruptLine true] }

/-- Rule R180: every movement asserts the line, whatever its level and the direction; movements are
not counted, so that of two before a read one pending interrupt and the last direction are left, and
one read clears it. -/
def Obligations.EveryMovementAssertsOnePendingInterrupt : Prop :=
  ∀ (s : State) (o n o' n' : EncPos),
    ∃ t u v w, exec (.encmov o n) s = .next t ∧ t.irq = true
      ∧ t.trace = s.trace ++ [.setInterruptLine true]
      ∧ exec (.encmov o' n') t = .next u ∧ u.irq = true
      ∧ u.trace = t.trace ++ [.setInterruptLine true]
      ∧ exec (.encmov o' n') s = .next v ∧ u.encDir = v.encDir
      ∧ exec (.encr false) u = .next w ∧ w.irq = false ∧ w.encDir = u.encDir

/-- Rule R181: an encoder read returns the last direction's byte; unless it is a probe it clears the
interrupt and drives the line low, whatever its level; a probe changes nothing; a memory read whose
target is `ENCODER` is one. -/
def Obligations.EncrReturnsDirectionAndClearsInterrupt : Prop :=
  (∀ s : State, ∃ b : Byte, b = (if s.encDir = .inc then s.cfg.encReadInc else s.cfg.encReadDec)
    ∧ exec (.encr false) s = .next { s with
        readData := some b, irq := false, trace := s.trace ++ [.setInterruptLine false] }
    ∧ exec (.encr true) s = .next { s with readData := some b })
  ∧ ∀ (cfg : Config) (a : Addr) (p : Bool), cfg.memDecode a .read = .encoder →
      decodeBus cfg (.read .mem a p) = .ok (.encr p)

/-! ### Displays, output latches, battery-backed memory -/

/-- Rules R195 and R197 (decision D32): a display write keeps the byte and drives the low nibble's
segments on digit 0 and the high nibble's on digit 1; the frame. -/
def Obligations.DisplayWriteDrivesTwoDigits : Prop :=
  ∀ (s : State) (d : Byte) (p : Bool) (lo hi : Fin Config.segEntries),
    d.toNat = 16 * hi.val + lo.val →
    exec (.edw d p) s = .next { s with
      editDisplay := d
      trace := s.trace ++ [.segments .edit 0 s.cfg.segTable[lo], .segments .edit 1 s.cfg.segTable[hi]] }
    ∧ exec (.pdw d p) s = .next { s with
      programDisplay := d
      trace := s.trace ++ [.segments .program 0 s.cfg.segTable[lo],
        .segments .program 1 s.cfg.segTable[hi]] }

/-- Rule R198 (decision D33): a latch write keeps the byte and makes one call for each bit that
drives an output, bit 0 first, with the bit's value complemented where the board inverts it; no
other latch changes; the frame. A latch the board does not have drives nothing (log entry 24). -/
def Obligations.OlwStoresByteAndProjectsBits : Prop :=
  ∀ (s : State) (k : Nat) (d : Byte) (p : Bool),
    ∃ t calls, exec (.olw k d p) s = .next t
      ∧ t = { s with outLatch := t.outLatch, trace := s.trace ++ calls }
      ∧ t.outLatch.length = s.outLatch.length
      ∧ (k < s.outLatch.length → t.outLatch[k]? = some d)
      ∧ (∀ j, j ≠ k → t.outLatch[j]? = s.outLatch[j]?)
      ∧ (s.cfg.outBits[k]? = none → calls = [])
      ∧ ∀ bits, s.cfg.outBits[k]? = some bits →
        calls = ((List.finRange 8).map (fun (i : Fin 8) => match bits[i] with
          | .led name inverted => [OutCall.led name (xor (d.getLsbD i) inverted)]
          | .flag name inverted => [OutCall.flag name (xor (d.getLsbD i) inverted)]
          | .unused => [])).flatten

/-- Rule R199 (decision D39; that the forwarded accesses stand in the trace is log entry 8): a write
through the window is stored at its offset and at no other, a read returns the byte there, and the
block itself keeps nothing but the byte returned. -/
def Obligations.NvramWindowIsForwarded : Prop :=
  ∀ (s : State) (off : Nat) (d : Byte) (p : Bool),
    (∃ t, exec (.nvw off d p) s = .next t
      ∧ (s.nvram.wf = true → t.nvram.read off = d ∧ t.nvram.wf = true)
      ∧ (∀ off', off' ≠ off → t.nvram.read off' = s.nvram.read off')
      ∧ t = { s with nvram := t.nvram, trace := s.trace ++ [.nvramWrite off d p] })
    ∧ exec (.nvr off p) s = .next { s with
        readData := some (s.nvram.read off), trace := s.trace ++ [.nvramRead off p] }

/-! ### Reset -/

/-- Rule R240 and R241 (the CV store and the octave latch are the source's, the other values decision
D18; the latches, the direction and the displays are free values, log entry 3): what RESET leaves,
and that it makes no call. What is outside the block stays (log entry 18). -/
def Obligations.ResetLeavesPowerOnState : Prop :=
  ∀ s : State, ∃ t, exec .reset s = .next t
    ∧ (∀ (j : Nat) (_ : j < Config.cvChannels), t.cvRaw[j] = 0 ∧ t.cvVolt[j] = 0)
    ∧ t.octaveHi = true
    ∧ (∀ c : Contour, t.egCurrent.get c = 0 ∧ t.egR.get c = none ∧ t.egTarget.get c = none)
    ∧ t.lfoCurrent = 0 ∧ t.lfoHalf = none ∧ t.lfoPhase = false ∧ t.lfoTimer = .disarmed
    ∧ t.irq = false ∧ t.now = 0 ∧ t.queue = [] ∧ t.trace = []
    ∧ t.outLatch.length = s.cfg.outLatchCount
    ∧ SameOutside s t ∧ t.nvram = s.nvram

/-- The state after reset is sound (the values the model chose there are log entries 3 and 5; none
of them matters to the invariant). -/
def Obligations.ResetStateIsSound : Prop := Inv State.reset

/-! ### Whole-machine rules -/

/-- 10_state.md rules R10 to R22 and section 6: every register is written by its own operations and
by no other; RESET writes them all. -/
def Obligations.RegistersAreWrittenOnlyByTheirOperations : Prop :=
  ∀ (i : Instr) (s t : State), exec i s = .next t → i ≠ .reset →
    ((∀ m e d p, i ≠ .cvw m e d p) → t.cvRaw = s.cvRaw ∧ t.cvVolt = s.cvVolt)
    ∧ ((∀ d p, i ≠ .roww d p) → t.rowLatch = s.rowLatch)
    ∧ ((∀ raw, i ≠ .octchg raw) → t.octaveHi = s.octaveHi)
    ∧ ((∀ o n, i ≠ .encmov o n) → t.encDir = s.encDir)
    ∧ ((∀ o n, i ≠ .encmov o n) → i ≠ .encr false → t.irq = s.irq)
    ∧ ((∀ d p, i ≠ .edw d p) → t.editDisplay = s.editDisplay)
    ∧ ((∀ d p, i ≠ .pdw d p) → t.programDisplay = s.programDisplay)
    ∧ ((∀ k d p, i ≠ .olw k d p) → t.outLatch = s.outLatch)
    ∧ ((∀ c v, i ≠ .egnote c v) → t.egCurrent = s.egCurrent)
    ∧ ((∀ c, i ≠ .egrc c) → t.egR = s.egR ∧ t.egTarget = s.egTarget)
    ∧ ((∀ v, i ≠ .lfonote v) → t.lfoCurrent = s.lfoCurrent)
    ∧ (i ≠ .lforc → t.lfoHalf = s.lfoHalf ∧ t.lfoTimer = s.lfoTimer)
    ∧ (i ≠ .lfotick → t.lfoPhase = s.lfoPhase)
    ∧ t.now = s.now

/-- 10_state.md rule R34 with the meanings' rules R92, R96, R112, R114, R138, R177, R180, R181, R195
to R199, 20_memory.md rule R46, 60_exceptions.md rule R215: every operation but RESET only adds to
the trace, and each kind of outbound call comes from its own operations alone. The debit is decisions
D3 and D4, the forward of a rate CV decision D7, the octave LEDs decision D20, the log decision D38
and the interrupt's one source decision D28; the two calls to the battery-backed memory are log
entry 8. -/
def Obligations.OutboundCallsComeOnlyFromTheirOperations : Prop :=
  ∀ (i : Instr) (s t : State), exec i s = .next t → i ≠ .reset →
    ∃ calls, t.trace = s.trace ++ calls ∧ ∀ c ∈ calls,
      match c with
      | .adjustCycleBudget x => x = -32 ∧ ∃ m e d, i = .cvw m e d false
      | .setInterruptLine true => ∃ o n, i = .encmov o n
      | .setInterruptLine false => i = .encr false
      | .setAnalogInput _ _ => ∃ m e d p, i = .cvw m e d p
      | .setResistance id _ => ∃ x, i = .egrc x ∧ id = s.cfg.solverRc.get x
      | .setTargetVoltage id _ => ∃ x, i = .egrc x ∧ id = s.cfg.solverRc.get x
      | .led _ _ => i = .lfotick ∨ (∃ raw, i = .octchg raw) ∨ ∃ k d p, i = .olw k d p
      | .segments .edit _ _ => ∃ d p, i = .edw d p
      | .segments .program _ _ => ∃ d p, i = .pdw d p
      | .flag _ _ => ∃ k d p, i = .olw k d p
      | .log => ∃ x, i = .egrc x
      | .nvramRead off p => i = .nvr off p
      | .nvramWrite off d p => i = .nvw off d p

/-- Rules R31, R32: no operation changes the parameters or the environment, and none but the
battery-backed memory's write changes that memory. -/
def Obligations.OperationsLeaveTheOutsideAlone : Prop :=
  ∀ (i : Instr) (s t : State), exec i s = .next t →
    SameOutside s t ∧ ((∀ off d p, i ≠ .nvw off d p) → t.nvram = s.nvram)

/-- Rule R217 (decision D30): what a probe changes, completely. -/
def Obligations.ProbeSuppressesOnlyDebitAndInterruptClear : Prop :=
  ∀ s : State,
    (∀ m e d, ∃ (t : State) (calls : List OutCall), t.trace = s.trace ++ calls ∧ exec (.cvw m e d true) s = .next t
      ∧ exec (.cvw m e d false) s
        = .next { t with trace := s.trace ++ .adjustCycleBudget (-32) :: calls })
    ∧ (∃ t : State, exec (.encr true) s = .next t ∧ t.irq = s.irq ∧ t.trace = s.trace
      ∧ exec (.encr false) s
        = .next { t with irq := false, trace := s.trace ++ [.setInterruptLine false] })
    ∧ (∀ off, ∃ t : State, exec (.nvr off true) s
          = .next { t with trace := s.trace ++ [.nvramRead off true] }
      ∧ exec (.nvr off false) s = .next { t with trace := s.trace ++ [.nvramRead off false] })
    ∧ (∀ off d, ∃ t : State, exec (.nvw off d true) s
          = .next { t with trace := s.trace ++ [.nvramWrite off d true] }
      ∧ exec (.nvw off d false) s = .next { t with trace := s.trace ++ [.nvramWrite off d false] })
    ∧ (∀ d, exec (.roww d true) s = exec (.roww d false) s
      ∧ exec (.edw d true) s = exec (.edw d false) s
      ∧ exec (.pdw d true) s = exec (.pdw d false) s)
    ∧ (∀ k d, exec (.olw k d true) s = exec (.olw k d false) s)
    ∧ (∀ g, exec (.btnr g true) s = exec (.btnr g false) s)
    ∧ exec (.kbdr true) s = exec (.kbdr false) s

/-- Rule R210: every operation completes for every operand value, from every state, and so does
every step. -/
def Obligations.EveryOperationCompletes : Prop :=
  (∀ (i : Instr) (s : State), ∃ t, exec i s = .next t) ∧ ∀ s : State, ∃ t, step s = .next t

/-- Rule R215 (decision D28): the level last driven on the interrupt line is `irq`, after reset and
after every step. -/
def Obligations.InterruptLineMirrorsIrq : Prop :=
  lineLevel State.reset.trace = State.reset.irq
  ∧ ∀ s t : State, lineLevel s.trace = s.irq → step s = .next t → lineLevel t.trace = t.irq

/-- The invariant is kept by every step, from every sound state: the parameters meet their
constraints, the CV store follows its law, pushed resistances and half-periods are positive, an
armed timer fires within one period, the queue holds entries of the present instant in order, time
is not negative, the board has its latches, and the memory is in canonical form. -/
def Obligations.EveryStepKeepsTheInvariant : Prop :=
  ∀ s t : State, Inv s → step s = .next t → Inv t

/-- Rule R23 (its reset value is decision D18): time never decreases but at power-on. -/
def Obligations.TimeNeverDecreases : Prop :=
  ∀ s t : State, step s = .next t → s.inbox.head? ≠ some .powerOn → s.now ≤ t.now

/-- Rules R49, R50: in a sound state a deferral goes to the very end of the queue, first in, first
out, and does not run inside the operation that makes it (no register it would write changes). -/
def Obligations.DeferralsQueueFirstInFirstOut : Prop :=
  ∀ (s t : State), Inv s →
    (∀ c v, exec (.egnote c v) s = .next t →
      t.queue = s.queue ++ [⟨s.now, s.stamp, .egrc c⟩]
      ∧ t.egR = s.egR ∧ t.egTarget = s.egTarget ∧ t.trace = s.trace)
    ∧ (∀ v, exec (.lfonote v) s = .next t →
      t.queue = s.queue ++ [⟨s.now, s.stamp, .lforc⟩]
      ∧ t.lfoHalf = s.lfoHalf ∧ t.lfoTimer = s.lfoTimer)
    ∧ (∀ c m e d p (h : e.toNat < Config.cvChannels), exec (.cvw m e d p) s = .next t →
      chanClass s.cfg ⟨e.toNat, h⟩ = .egLevel c → d ≠ s.cvRaw[e.toNat] →
      t.queue = s.queue ++ [⟨s.now, s.stamp, .egrc c⟩]
      ∧ t.egR = s.egR ∧ t.egTarget = s.egTarget)

/-- Rule R53 (the tie is decision D15, log entry 13; `RUN` decision D36, log entry 14): with an entry
at the head of the queue and the timer disarmed, a delivery runs that entry, and so does `RUN` when
the entry is due now. With an armed timer the earlier of the entry and the firing runs, and of two at
one time the one scheduled or armed first. Time never moves back. -/
def Obligations.SchedulerDeliversEarliestFirst : Prop :=
  ∀ (s : State) (rest : List Input) (e : QueueEntry) (q : List QueueEntry),
    s.queue = e :: q →
    (s.inbox = .deliver :: rest →
      (s.lfoTimer = .disarmed →
        step s = exec e.op.toInstr { s with
          inbox := rest, draws := s.draws + 1, now := max s.now e.time, queue := q })
      ∧ ∀ next period stamp, s.lfoTimer = .armed next period stamp →
        (next < e.time ∨ (next = e.time ∧ stamp < e.stamp) →
          step s = exec .lfotick { s with
            inbox := rest, draws := s.draws + 1, now := max s.now next
            lfoTimer := .armed (next + period) period stamp })
        ∧ (e.time < next ∨ (next = e.time ∧ e.stamp ≤ stamp) →
          step s = exec e.op.toInstr { s with
            inbox := rest, draws := s.draws + 1, now := max s.now e.time, queue := q }))
    ∧ (s.inbox = .run :: rest → s.lfoTimer = .disarmed → e.time ≤ s.now →
      step s = exec e.op.toInstr { s with draws := s.draws + 1, queue := q })

/-- Rules R53, R82 (decisions D17, D36; one delivery a step is log entry 14): while the earliest
pending item is due by `u`, a step of `ADVANCE u` is the delivery of that item, with time at the
item's, and `ADVANCE u` stays the next action; when nothing is due by `u`, the step only moves time
to `u` (or leaves it, if it is later), and nothing is due by `u` afterwards. -/
def Obligations.AdvanceDeliversEverythingDue : Prop :=
  ∀ (s : State) (u : Seconds) (rest : List Input), s.inbox = .advance u :: rest →
    (∀ p, s.earliest = some p → p.time ≤ u →
      (step s = match p with
        | .entry e => exec e.op.toInstr { s with
            draws := s.draws + 1, queue := s.queue.tail, now := max s.now e.time }
        | .firing next period stamp => exec .lfotick { s with
            draws := s.draws + 1, lfoTimer := .armed (next + period) period stamp
            now := max s.now next })
      ∧ ∀ t, step s = .next t → t.inbox = s.inbox)
    ∧ ((∀ p, s.earliest = some p → u < p.time) →
      ∃ t, step s = .next t
        ∧ t = { s with inbox := rest, draws := s.draws + 1, now := max s.now u }
        ∧ ∀ p, t.earliest = some p → u < p.time)

/-! ### Decoding and stepping -/

/-- A step runs the operation that the next action decodes to, in the state with the action taken
and the draw number moved on (00_scope.md rule R2, 30_encoding.md rule R60; log entry 1). -/
def Obligations.StepRunsTheDecodedOperation : Prop :=
  ∀ (s : State) (rest : List Input) (i : Instr),
    (∀ b, s.inbox = .bus b :: rest → decodeBus s.cfg b = .ok i →
      step s = exec i { s with inbox := rest, draws := s.draws + 1 })
    ∧ (∀ id v, s.inbox = .notify id v :: rest → decodeNotification s.cfg id v = .ok i →
      step s = exec i { s with inbox := rest, draws := s.draws + 1 })
    ∧ (∀ raw, s.inbox = .octave raw :: rest →
      step s = exec (.octchg raw) { s with inbox := rest, draws := s.draws + 1 })
    ∧ (∀ o n, s.inbox = .encoder o n :: rest →
      step s = exec (.encmov o n) { s with inbox := rest, draws := s.draws + 1 })
    ∧ (s.inbox = .powerOn :: rest →
      step s = exec .reset { s with inbox := rest, draws := s.draws + 1 })
    ∧ (∀ nbits w b, decodeFrame (BitVec.ofNat 32 (w % 2 ^ nbits)) = .ok b →
      decodeBus s.cfg b = .ok i →
      step (s.withFetchWord nbits w) = exec i { s with draws := s.draws + 1 })

/-- Rule R78 (decision D25): an I/O read, an unmapped memory access and a notification with a foreign
id change nothing; a read returns some byte, which the statement leaves open. -/
def Obligations.UndecodedAccessesChangeNothing : Prop :=
  ∀ (s : State) (rest : List Input),
    (∀ a p, s.inbox = .bus (.read .io a p) :: rest → ∃ b, step s
      = .next { s with inbox := rest, draws := s.draws + 1, readData := some b })
    ∧ (∀ a p, s.inbox = .bus (.read .mem a p) :: rest → s.cfg.memDecode a .read = .unmapped →
      ∃ b, step s = .next { s with inbox := rest, draws := s.draws + 1, readData := some b })
    ∧ (∀ a d p, s.inbox = .bus (.write .mem a d p) :: rest →
      s.cfg.memDecode a .write = .unmapped →
      step s = .next { s with inbox := rest, draws := s.draws + 1 })
    ∧ (∀ id v, s.inbox = .notify id v :: rest → (∀ c, id ≠ s.cfg.solverOutRate.get c) →
      id ≠ s.cfg.solverOutLfoRate →
      step s = .next { s with inbox := rest, draws := s.draws + 1 })

/-- Rules R41 and R62: the I/O space. Every write is a CVW whose entry is the low five address bits
and whose ignored field is the next three, the bits above 8 are ignored, entries 0..23 are the
channels and 24..31 none, the ignored field changes nothing, and no read is decoded. -/
def Obligations.EveryIoWriteIsACvw : Prop :=
  (∀ (cfg : Config) (a : Addr) (d : Byte) (p : Bool), ∃ m e,
    decodeBus cfg (.write .io a d p) = .ok (.cvw m e d p)
    ∧ e.toNat = a.toNat % 32 ∧ m.toNat = a.toNat / 32 % 8)
  ∧ (∀ (e : BitVec 5) (ch : Fin Config.cvChannels), channelOf e = some ch ↔ ch.val = e.toNat)
  ∧ (∀ e : BitVec 5, channelOf e = none ↔ 24 ≤ e.toNat)
  ∧ (∀ (s : State) (m m' : BitVec 3) (e : BitVec 5) (d : Byte) (p : Bool),
    exec (.cvw m e d p) s = exec (.cvw m' e d p) s)
  ∧ (∀ (cfg : Config) (a : Addr) (p : Bool), decodeBus cfg (.read .io a p) = .error .ioRead)

/-- Rule R190: the routing of memory accesses by target, for every map (the map itself is OPEN,
decision D26): each operation is selected by its target in its direction. -/
def Obligations.MemoryAccessesReachTheirHandlers : Prop :=
  ∀ (cfg : Config) (a : Addr) (d : Byte) (p : Bool),
    (∀ g, cfg.memDecode a .read = .buttons g → decodeBus cfg (.read .mem a p) = .ok (.btnr g p))
    ∧ (cfg.memDecode a .read = .keyboard → decodeBus cfg (.read .mem a p) = .ok (.kbdr p))
    ∧ (cfg.memDecode a .read = .encoder → decodeBus cfg (.read .mem a p) = .ok (.encr p))
    ∧ (∀ off, cfg.memDecode a .read = .nvram off →
      decodeBus cfg (.read .mem a p) = .ok (.nvr off p))
    ∧ (∀ off, cfg.memDecode a .write = .nvram off →
      decodeBus cfg (.write .mem a d p) = .ok (.nvw off d p))
    ∧ (cfg.memDecode a .write = .editDisplay →
      decodeBus cfg (.write .mem a d p) = .ok (.edw d p))
    ∧ (cfg.memDecode a .write = .programDisplay →
      decodeBus cfg (.write .mem a d p) = .ok (.pdw d p))
    ∧ (cfg.memDecode a .write = .rowLatch →
      decodeBus cfg (.write .mem a d p) = .ok (.roww d p))
    ∧ (∀ k, cfg.memDecode a .write = .outLatch k →
      decodeBus cfg (.write .mem a d p) = .ok (.olw k d p))

/-- Frames written out bit by bit (the layout is log entry 9; the addresses are configuration EX's)
and events decode to the operations they stand for, one of every family. -/
def Obligations.WrittenOutWordsDecode : Prop :=
  decodeBytes Config.ex [0x4C, 0x00, 0xFF, 0x00] = .ok (.cvw 2 12 0xFF false, [])
  ∧ decodeBytes Config.ex [0x03, 0x40, 0x15, 0x03] = .ok (.roww 0x15 true, [])
  ∧ decodeBytes Config.ex [0x06, 0x40, 0x00, 0x06] = .ok (.kbdr false, [])
  ∧ decodeBytes Config.ex [0x02, 0x40, 0x01, 0x02] = .ok (.olw 0 0x01 false, [])
  ∧ decode Config.ex (.notify 4 1) = .ok (.egnote .filter 1)
  ∧ decode Config.ex (.notify 6 1) = .ok (.lfonote 1)
  ∧ decode Config.ex (.queued (.egrc .loudness)) = .ok (.egrc .loudness)
  ∧ decode Config.ex .timer = .ok .lfotick
  ∧ decodeTableWord 8 0x4C = some (.cvw 2 12 0 false)

/-- Decode and encode agree: on every board that meets its constraints, every well-formed operation
has a wire form, and it decodes to that operation with every operand. -/
def Obligations.DecodeOfEncodeIsTheOperation : Prop :=
  ∀ (cfg : Config) (i : Instr), cfg.wf = true → i.wellFormed cfg = true →
    ∃ w, encode cfg i = some w ∧ decode cfg w = .ok i

/-- The bytes of a bus operation are four and decode to it, whatever follows them. -/
def Obligations.DecodeOfEncodedBytesIsTheOperation : Prop :=
  ∀ (cfg : Config) (i : Instr) (bytes rest : List Byte),
    encodeBytes cfg i = some bytes →
    bytes.length = 4 ∧ decodeBytes cfg (bytes ++ rest) = .ok (i, rest)

/-- A frame has one meaning and a transaction one frame, and what is decoded from anything delivered
is well formed: the map has an address for it. -/
def Obligations.DecodingIsUnambiguousAndWellFormed : Prop :=
  (∀ (w : BitVec 32) (b : BusTxn), decodeFrame w = .ok b ↔ encodeFrame b = w)
  ∧ ∀ (cfg : Config) (w : Wire) (i : Instr), decode cfg w = .ok i → i.wellFormed cfg = true

/-! ### The scheduler's liberties -/

/-- Rules R53, R82 (decisions D17, D36; one delivery a step is log entry 14): while the earliest
pending item is due now, a step of `RUN` is the delivery of that item, without moving time, and `RUN`
stays the next action; when nothing is due now, the step only takes `RUN` away. -/
def Obligations.RunDeliversEverythingDueNow : Prop :=
  ∀ (s : State) (rest : List Input), s.inbox = .run :: rest →
    (∀ p, s.earliest = some p → p.time ≤ s.now →
      (step s = match p with
        | .entry e => exec e.op.toInstr { s with
            draws := s.draws + 1, queue := s.queue.tail, now := s.now }
        | .firing next period stamp => exec .lfotick { s with
            draws := s.draws + 1, lfoTimer := .armed (next + period) period stamp
            now := s.now })
      ∧ ∀ t, step s = .next t → t.inbox = s.inbox)
    ∧ ((∀ p, s.earliest = some p → s.now < p.time) →
      step s = .next { s with inbox := rest, draws := s.draws + 1 })

/-- Rule R53, "The scheduler may not advance `now` past a pending item without delivering it"
(decision D17; the action is log entry 28): time that elapses towards `u` delivers nothing, moves to
`u`, stops at the earliest pending item's time where that comes sooner, and never moves back. -/
def Obligations.ElapsingTimeStopsAtPendingItem : Prop :=
  ∀ (s : State) (u : Seconds) (rest : List Input), s.inbox = .elapse u :: rest →
    ∃ t, step s = .next t
      ∧ t = { s with inbox := rest, draws := s.draws + 1, now := t.now }
      ∧ (s.earliest = none → t.now = max s.now u)
      ∧ (∀ p, s.earliest = some p → t.now = max s.now (min u p.time))
      ∧ t.earliest = s.earliest

/-- Rule R53 and U6 (decision D17): where a firing of the timer is the only pending item, a bus
transaction at its very time runs before it or after it. Before: time reaches the firing's, the
firing stays pending, and the transaction's operation runs. After: the firing's tick runs, then the
operation, at the same time. -/
def Obligations.TransactionRunsBeforeOrAfterDueFiring : Prop :=
  ∀ (s : State) (next period : Seconds) (stamp : Nat) (b : BusTxn) (i : Instr)
    (rest : List Input),
    s.queue = [] → s.lfoTimer = .armed next period stamp → s.now ≤ next →
    decodeBus s.cfg b = .ok i →
    (s.inbox = .elapse next :: .bus b :: rest →
      ∃ t, step s = .next t
        ∧ step t = exec i { s with inbox := rest, draws := s.draws + 2, now := next })
    ∧ (s.inbox = .deliver :: .bus b :: rest →
      ∃ t, step s = .next t
        ∧ step t = exec i { s with
            inbox := rest, draws := s.draws + 2, now := next, lfoPhase := !s.lfoPhase
            lfoTimer := .armed (next + period) period stamp
            trace := s.trace ++ [.led .lfo s.lfoPhase] })
end

