-- ==== Sys2Proof/Laws/Config.lean ====
section
/-! SUPPORT. What the constraints on the OPEN parameters say, one lemma for each that a proof
needs, and that the example configuration and the board meet them all. -/

namespace Sys2Proof

variable {cfg : Config}

theorem Config.wf_channels (h : cfg.wf = true) : cfg.namedChannels.Nodup := by
  simp only [Config.wf, Bool.and_eq_true, decide_eq_true_eq] at h
  tauto

theorem Config.wf_notifications (h : cfg.wf = true) :
    [cfg.solverOutRate.filter, cfg.solverOutRate.loudness, cfg.solverOutLfoRate].Nodup := by
  simp only [Config.wf, Bool.and_eq_true, decide_eq_true_eq] at h
  tauto

theorem Config.wf_divider (h : cfg.wf = true) (c : Contour) : 0 < cfg.egDivMinus.get c := by
  simp only [Config.wf, Bool.and_eq_true, decide_eq_true_eq] at h
  cases c <;> simp only [PerContour.get] <;> tauto

theorem Config.wf_thresholds (h : cfg.wf = true) (c : Contour) :
    cfg.peakVFall.get c < cfg.peakVRise.get c := by
  simp only [Config.wf, Bool.and_eq_true, decide_eq_true_eq] at h
  cases c <;> simp only [PerContour.get] <;> tauto

theorem Config.wf_lfo (h : cfg.wf = true) : 0 < cfg.lfoVPeak ∧ 0 < cfg.lfoC := by
  simp only [Config.wf, Bool.and_eq_true, decide_eq_true_eq] at h
  tauto

theorem Config.wf_ladder (h : cfg.wf = true) :
    0 < cfg.kbdRA + ((cfg.kbdTotalKeys : Rat) - 1) * cfg.kbdRKey ∧ 0 < cfg.kbdRKey
      ∧ 0 < cfg.kbdDiv2 := by
  simp only [Config.wf, Bool.and_eq_true, decide_eq_true_eq] at h
  tauto

theorem Config.wf_widths (h : cfg.wf = true) :
    (∀ w ∈ cfg.kbdGroupWidth.toList, 1 ≤ w) ∧ cfg.kbdGroupWidth.toList.sum ≤ cfg.kbdTotalKeys := by
  simp only [Config.wf, Bool.and_eq_true, decide_eq_true_eq, List.all_eq_true] at h
  tauto

theorem Config.ex_wf : Config.ex.wf = true := by decide +kernel

theorem Config.board_wf : Config.board.wf = true := by
  unfold Config.board
  split
  · assumption
  · exact Config.ex_wf

end Sys2Proof
end

