-- ==== Sys2Proof/Laws/Decode.lean ====
section
/-! SUPPORT. The address map, its inverse search, and the four-byte frame. -/

namespace Sys2Proof

/-- An address the search finds does select the target. -/
theorem Config.memDecode_of_addrOf {cfg : Config} {dir : Dir} {t : Target} {a : Addr}
    (h : cfg.addrOf dir t = some a) : cfg.memDecode a dir = t := by
  simp only [Config.addrOf, Option.map_eq_some_iff] at h
  obtain ⟨e, he, rfl⟩ := h
  have := List.find?_some he
  simp only [Bool.and_eq_true, beq_iff_eq] at this
  exact this.2

/-- The search finds an address for every target the map reaches. -/
theorem Config.reaches_of_memDecode {cfg : Config} {dir : Dir} {a : Addr}
    (h : cfg.memDecode a dir ≠ .unmapped) : cfg.reaches dir (cfg.memDecode a dir) = true := by
  unfold Config.memDecode at h
  split at h
  · rename_i e he
    have hp := List.find?_some he
    simp only [Bool.and_eq_true, beq_iff_eq] at hp
    have ht : cfg.memDecode a dir = e.target := by simp [Config.memDecode, he]
    simp only [Config.reaches, Config.addrOf, Option.isSome_map, List.find?_isSome]
    refine ⟨e, List.mem_of_find?_eq_some he, ?_⟩
    simp [hp.1, hp.2, ht]
  · exact absurd rfl h

theorem word32_bytesOfWord32 (w : BitVec 32) :
    word32 (w.extractLsb' 0 8) (w.extractLsb' 8 8) (w.extractLsb' 16 8) (w.extractLsb' 24 8) = w := by
  apply BitVec.eq_of_getLsbD_eq
  intro i hi
  simp only [word32, BitVec.getLsbD_append, BitVec.getLsbD_extractLsb']
  by_cases h8 : i < 8
  · simp [h8]
  · by_cases h16 : i < 16
    · simp [h8, show i - 8 < 8 by omega, show 8 + (i - 8) = i by omega]
    · by_cases h24 : i < 24
      · simp [h8, show ¬ i - 8 < 8 by omega, show i - 8 - 8 < 8 by omega,
          show 16 + (i - 8 - 8) = i by omega]
      · simp [h8, show ¬ i - 8 < 8 by omega, show ¬ i - 8 - 8 < 8 by omega,
          show i - 8 - 8 - 8 < 8 by omega, show 24 + (i - 8 - 8 - 8) = i by omega]

/-- A frame, bit by bit: address, data, probe, space, direction, and five zeros. -/
theorem frame_getLsbD (dir space probe : Bool) (data : Byte) (addr : Addr) (i : Nat) :
    (0#5 ++ BitVec.ofBool dir ++ BitVec.ofBool space ++ BitVec.ofBool probe ++ data ++ addr
      : BitVec 32).getLsbD i
      = if i < 16 then addr.getLsbD i else if i < 24 then data.getLsbD (i - 16)
        else if i = 24 then probe else if i = 25 then space else if i = 26 then dir else false := by
  simp only [BitVec.getLsbD_append, BitVec.getLsbD_ofBool, BitVec.getLsbD_zero]
  split_ifs <;> first | rfl | omega | (simp; omega)

end Sys2Proof
end

