-- ==== Sys2Proof/Laws/Operands.lean ====
section
/-! SUPPORT. What the operand forms compute: the byte-to-voltage conversion, channel selection,
bytes from bits, the row field, the column byte and the key scan. -/

namespace Sys2Proof.Machine

/-! ### The conversion of a byte to volts -/

theorem voltage_eq (b : Byte) : voltage b = 10 * (b.toNat : Rat) / 255 := by
  simp only [voltage, Config.cvFullScale, Config.cvDivisor, Rat.mkRat_eq_div]
  push_cast
  ring

theorem voltage_lt_iff {b b' : Byte} : voltage b < voltage b' ↔ b.toNat < b'.toNat := by
  rw [voltage_eq, voltage_eq, div_lt_div_iff_of_pos_right (by norm_num)]
  constructor
  · intro h
    have : (b.toNat : Rat) < b'.toNat := by linarith
    exact_mod_cast this
  · intro h
    have : (b.toNat : Rat) < b'.toNat := by exact_mod_cast h
    linarith

theorem voltage_injective {b b' : Byte} (h : voltage b = voltage b') : b = b' := by
  have h1 : ¬ b.toNat < b'.toNat := fun hl => absurd h (ne_of_lt (voltage_lt_iff.2 hl))
  have h2 : ¬ b'.toNat < b.toNat := fun hl => absurd h.symm (ne_of_lt (voltage_lt_iff.2 hl))
  exact BitVec.eq_of_toNat_eq (by omega)

theorem voltage_zero : voltage 0 = 0 := by
  rw [voltage_eq]
  simp

/-! ### Channels -/

theorem channelOf_of_lt {entry : BitVec 5} (h : entry.toNat < Config.cvChannels) :
    channelOf entry = some ⟨entry.toNat, h⟩ := dif_pos h

theorem channelOf_of_ge {entry : BitVec 5} (h : Config.cvChannels ≤ entry.toNat) :
    channelOf entry = none := dif_neg (by omega)

/-! ### Bytes from bits -/

/-- Bit `i` of the byte built from `f` is `f i`. -/
theorem byteOf_getLsbD (f : Fin 8 → Bool) (i : Fin 8) : (byteOf f).getLsbD i = f i := by
  generalize h0 : f 0 = b0
  generalize h1 : f 1 = b1
  generalize h2 : f 2 = b2
  generalize h3 : f 3 = b3
  generalize h4 : f 4 = b4
  generalize h5 : f 5 = b5
  generalize h6 : f 6 = b6
  generalize h7 : f 7 = b7
  have key : ∀ b0 b1 b2 b3 b4 b5 b6 b7 : Bool,
      (BitVec.ofBool b7 ++ BitVec.ofBool b6 ++ BitVec.ofBool b5 ++ BitVec.ofBool b4
        ++ BitVec.ofBool b3 ++ BitVec.ofBool b2 ++ BitVec.ofBool b1 ++ BitVec.ofBool b0
        : BitVec 8).getLsbD i
      = (#v[b0, b1, b2, b3, b4, b5, b6, b7])[i] := by
    revert i
    decide
  have := key b0 b1 b2 b3 b4 b5 b6 b7
  simp only [byteOf, h0, h1, h2, h3, h4, h5, h6, h7]
  rw [this]
  fin_cases i <;> simp [*]

theorem rowField_getLsbD (data : Byte) (i : Fin Config.rowBits) :
    (rowField data).getLsbD i = data.getLsbD i := by
  have hi : (i : Nat) < 6 := i.isLt
  simp [rowField, hi]

/-! ### The column byte -/

/-- The accumulated complement has bit `j` just when an active row's port has bit `j` clear. -/
theorem columns_fold_getLsbD (latch : BitVec Config.rowBits) (ports : Vector Byte Config.rowBits)
    (rows : List (Fin Config.rowBits)) (acc : Byte) (j : Nat) (hj : j < 8) :
    (rows.foldl (fun acc (r : Fin Config.rowBits) =>
        if latch.getLsbD r = false then acc ||| ~~~ports[r] else acc) acc).getLsbD j
      = (acc.getLsbD j
          || rows.any (fun r => !latch.getLsbD r && !(ports[r]).getLsbD j)) := by
  induction rows generalizing acc with
  | nil => simp
  | cons r rows ih =>
    rw [List.foldl_cons, ih, List.any_cons]
    cases h : latch.getLsbD r
    · rw [if_pos rfl, BitVec.getLsbD_or, BitVec.getLsbD_not]
      simp only [hj, decide_true, Bool.true_and, Bool.not_false, Bool.or_assoc]
    · rw [if_neg (by simp)]
      simp only [Bool.not_true, Bool.false_and, Bool.false_or]

theorem columnByte_getLsbD (latch : BitVec Config.rowBits) (ports : Vector Byte Config.rowBits)
    (j : Nat) (hj : j < 6) :
    (columnByte latch ports).getLsbD j = true ↔
      ∃ r : Fin Config.rowBits, latch.getLsbD r = false ∧ (ports[r]).getLsbD j = false := by
  have hmask : Config.colMask.getLsbD j = true := by
    have : ∀ j : Fin 6, Config.colMask.getLsbD j = true := by decide
    exact this ⟨j, hj⟩
  have hfloat : Config.colFloat.getLsbD j = false := by
    have : ∀ j : Fin 6, Config.colFloat.getLsbD j = false := by decide
    exact this ⟨j, hj⟩
  simp only [columnByte, BitVec.getLsbD_or, BitVec.getLsbD_and, hmask, hfloat, Bool.and_true,
    Bool.or_false, columns_fold_getLsbD _ _ _ _ _ (show j < 8 by omega)]
  simp

theorem columnByte_float (latch : BitVec Config.rowBits) (ports : Vector Byte Config.rowBits)
    (j : Nat) (hj : 6 ≤ j) (hj' : j < 8) : (columnByte latch ports).getLsbD j = true := by
  have hfloat : Config.colFloat.getLsbD j = true := by
    obtain rfl | rfl : j = 6 ∨ j = 7 := by omega
    all_goals decide
  simp only [columnByte, BitVec.getLsbD_or, hfloat, Bool.or_true]

/-! ### The key scan -/

theorem lowestBit_eq_some {width bits b : Nat} :
    lowestBit width bits = some b ↔
      b < width ∧ bits.testBit b = true ∧ ∀ b' < b, bits.testBit b' = false := by
  simp only [lowestBit, List.find?_range_eq_some, List.mem_range]
  constructor
  · rintro ⟨h1, h2, h3⟩
    exact ⟨h2, h1, fun b' hb => by simpa using h3 b' hb⟩
  · rintro ⟨h1, h2, h3⟩
    exact ⟨h2, h1, fun b' hb => by simpa using h3 b' hb⟩

theorem lowestBit_eq_none {width bits : Nat} :
    lowestBit width bits = none ↔ ∀ b < width, bits.testBit b = false := by
  simp [lowestBit]

/-- What the scan of the groups from `base` up finds: the bit of a group, within its width, that no
pressed key lies below; and nothing just when no such bit is set. -/
theorem lowestKey_spec (base : Nat) (gs : List (Nat × Nat)) :
    (∀ k, lowestKey base gs = some k ↔
      ∃ g b, ∃ h : g < gs.length, b < (gs[g]).1 ∧ (gs[g]).2.testBit b = true
        ∧ k = base + ((gs.map (·.1)).take g).sum + b
        ∧ ∀ g' b', ∀ h' : g' < gs.length, b' < (gs[g']).1 → (gs[g']).2.testBit b' = true →
          k ≤ base + ((gs.map (·.1)).take g').sum + b')
    ∧ (lowestKey base gs = none ↔
      ∀ g b, ∀ h : g < gs.length, b < (gs[g]).1 → (gs[g]).2.testBit b = false) := by
  induction gs generalizing base with
  | nil => simp [lowestKey]
  | cons x gs ih =>
    obtain ⟨w, bits⟩ := x
    cases hl : lowestBit w bits with
    | some b =>
      have hb := lowestBit_eq_some.1 hl
      have hlow : ∀ g' b', ∀ h' : g' < ((w, bits) :: gs).length, b' < (((w, bits) :: gs)[g']).1 →
          (((w, bits) :: gs)[g']).2.testBit b' = true →
          base + b ≤ base + ((((w, bits) :: gs).map (·.1)).take g').sum + b' := by
        intro g' b' h' h1 h2
        cases g' with
        | zero =>
          simp at h2 ⊢
          by_contra hc
          rw [hb.2.2 b' (by omega)] at h2; cases h2
        | succ g' => simp; omega
      constructor
      · intro k
        simp only [lowestKey, hl, Option.some.injEq]
        constructor
        · rintro rfl
          exact ⟨0, b, by simp, by simpa using hb.1, by simpa using hb.2.1, by simp, hlow⟩
        · rintro ⟨g, b1, h, h1, h2, h3, h4⟩
          have a1 := hlow g b1 h h1 h2
          have a2 := h4 0 b (by simp) (by simpa using hb.1) (by simpa using hb.2.1)
          simp at a2; omega
      · simp only [lowestKey, hl]
        constructor
        · intro h; cases h
        · intro h; have := h 0 b (by simp) (by simpa using hb.1); simp [hb.2.1] at this
    | none =>
      have hn := lowestBit_eq_none.1 hl
      obtain ⟨i1, i2⟩ := ih (base + w)
      constructor
      · intro k
        simp only [lowestKey, hl, i1]
        constructor
        · rintro ⟨g, b, h, h1, h2, h3, h4⟩
          refine ⟨g + 1, b, by simpa using h, by simpa using h1, by simpa using h2,
            by simp [h3]; omega, ?_⟩
          intro g' b' h' h1' h2'
          cases g' with
          | zero => simp at h1' h2'; rw [hn b' h1'] at h2'; cases h2'
          | succ g' =>
            have := h4 g' b' (by simpa using h') (by simpa using h1') (by simpa using h2')
            simp; omega
        · rintro ⟨g, b, h, h1, h2, h3, h4⟩
          cases g with
          | zero => simp at h1 h2; rw [hn b h1] at h2; cases h2
          | succ g =>
            refine ⟨g, b, by simpa using h, by simpa using h1, by simpa using h2,
              by simp [h3]; omega, ?_⟩
            intro g' b' h' h1' h2'
            have := h4 (g'+1) b' (by simpa using h') (by simpa using h1') (by simpa using h2')
            simp at this; omega
      · simp only [lowestKey, hl, i2]
        constructor
        · intro H g b h h1
          cases g with
          | zero => simpa using hn b (by simpa using h1)
          | succ g => simpa using H g b (by simpa using h) (by simpa using h1)
        · intro H g b h h1
          exact H (g+1) b (by simpa using h) (by simpa using h1)

end Sys2Proof.Machine
end

