-- ==== Sys2Proof/Laws/State.lean ====
section
/-! SUPPORT. What each update of the state does to each field: one lemma per field per update, so
that no proof unfolds a record update. -/

namespace Sys2Proof.Machine

variable (s : State)

/-! ### `State.emit` -/

@[simp] theorem State.emit_cfg (c : OutCall) : (s.emit c).cfg = s.cfg := rfl
@[simp] theorem State.emit_cvRaw (c : OutCall) : (s.emit c).cvRaw = s.cvRaw := rfl
@[simp] theorem State.emit_cvVolt (c : OutCall) : (s.emit c).cvVolt = s.cvVolt := rfl
@[simp] theorem State.emit_egCurrent (c : OutCall) : (s.emit c).egCurrent = s.egCurrent := rfl
@[simp] theorem State.emit_egR (c : OutCall) : (s.emit c).egR = s.egR := rfl
@[simp] theorem State.emit_egTarget (c : OutCall) : (s.emit c).egTarget = s.egTarget := rfl
@[simp] theorem State.emit_lfoCurrent (c : OutCall) : (s.emit c).lfoCurrent = s.lfoCurrent := rfl
@[simp] theorem State.emit_lfoHalf (c : OutCall) : (s.emit c).lfoHalf = s.lfoHalf := rfl
@[simp] theorem State.emit_lfoPhase (c : OutCall) : (s.emit c).lfoPhase = s.lfoPhase := rfl
@[simp] theorem State.emit_lfoTimer (c : OutCall) : (s.emit c).lfoTimer = s.lfoTimer := rfl
@[simp] theorem State.emit_rowLatch (c : OutCall) : (s.emit c).rowLatch = s.rowLatch := rfl
@[simp] theorem State.emit_octaveHi (c : OutCall) : (s.emit c).octaveHi = s.octaveHi := rfl
@[simp] theorem State.emit_encDir (c : OutCall) : (s.emit c).encDir = s.encDir := rfl
@[simp] theorem State.emit_irq (c : OutCall) : (s.emit c).irq = s.irq := rfl
@[simp] theorem State.emit_editDisplay (c : OutCall) : (s.emit c).editDisplay = s.editDisplay := rfl
@[simp] theorem State.emit_programDisplay (c : OutCall) :
    (s.emit c).programDisplay = s.programDisplay := rfl
@[simp] theorem State.emit_outLatch (c : OutCall) : (s.emit c).outLatch = s.outLatch := rfl
@[simp] theorem State.emit_now (c : OutCall) : (s.emit c).now = s.now := rfl
@[simp] theorem State.emit_queue (c : OutCall) : (s.emit c).queue = s.queue := rfl
@[simp] theorem State.emit_trace (c : OutCall) : (s.emit c).trace = s.trace ++ [c] := rfl
@[simp] theorem State.emit_readData (c : OutCall) : (s.emit c).readData = s.readData := rfl
@[simp] theorem State.emit_nvram (c : OutCall) : (s.emit c).nvram = s.nvram := rfl
@[simp] theorem State.emit_env (c : OutCall) : (s.emit c).env = s.env := rfl
@[simp] theorem State.emit_inbox (c : OutCall) : (s.emit c).inbox = s.inbox := rfl
@[simp] theorem State.emit_stamp (c : OutCall) : (s.emit c).stamp = s.stamp := rfl
@[simp] theorem State.emit_draws (c : OutCall) : (s.emit c).draws = s.draws := rfl

/-! ### `State.emitAll` -/

@[simp] theorem State.emitAll_cfg (cs : List OutCall) : (s.emitAll cs).cfg = s.cfg := rfl
@[simp] theorem State.emitAll_cvRaw (cs : List OutCall) : (s.emitAll cs).cvRaw = s.cvRaw := rfl
@[simp] theorem State.emitAll_cvVolt (cs : List OutCall) : (s.emitAll cs).cvVolt = s.cvVolt := rfl
@[simp] theorem State.emitAll_egCurrent (cs : List OutCall) :
    (s.emitAll cs).egCurrent = s.egCurrent := rfl
@[simp] theorem State.emitAll_egR (cs : List OutCall) : (s.emitAll cs).egR = s.egR := rfl
@[simp] theorem State.emitAll_egTarget (cs : List OutCall) :
    (s.emitAll cs).egTarget = s.egTarget := rfl
@[simp] theorem State.emitAll_lfoCurrent (cs : List OutCall) :
    (s.emitAll cs).lfoCurrent = s.lfoCurrent := rfl
@[simp] theorem State.emitAll_lfoHalf (cs : List OutCall) :
    (s.emitAll cs).lfoHalf = s.lfoHalf := rfl
@[simp] theorem State.emitAll_lfoPhase (cs : List OutCall) :
    (s.emitAll cs).lfoPhase = s.lfoPhase := rfl
@[simp] theorem State.emitAll_lfoTimer (cs : List OutCall) :
    (s.emitAll cs).lfoTimer = s.lfoTimer := rfl
@[simp] theorem State.emitAll_rowLatch (cs : List OutCall) :
    (s.emitAll cs).rowLatch = s.rowLatch := rfl
@[simp] theorem State.emitAll_octaveHi (cs : List OutCall) :
    (s.emitAll cs).octaveHi = s.octaveHi := rfl
@[simp] theorem State.emitAll_encDir (cs : List OutCall) : (s.emitAll cs).encDir = s.encDir := rfl
@[simp] theorem State.emitAll_irq (cs : List OutCall) : (s.emitAll cs).irq = s.irq := rfl
@[simp] theorem State.emitAll_editDisplay (cs : List OutCall) :
    (s.emitAll cs).editDisplay = s.editDisplay := rfl
@[simp] theorem State.emitAll_programDisplay (cs : List OutCall) :
    (s.emitAll cs).programDisplay = s.programDisplay := rfl
@[simp] theorem State.emitAll_outLatch (cs : List OutCall) :
    (s.emitAll cs).outLatch = s.outLatch := rfl
@[simp] theorem State.emitAll_now (cs : List OutCall) : (s.emitAll cs).now = s.now := rfl
@[simp] theorem State.emitAll_queue (cs : List OutCall) : (s.emitAll cs).queue = s.queue := rfl
@[simp] theorem State.emitAll_trace (cs : List OutCall) :
    (s.emitAll cs).trace = s.trace ++ cs := rfl
@[simp] theorem State.emitAll_readData (cs : List OutCall) :
    (s.emitAll cs).readData = s.readData := rfl
@[simp] theorem State.emitAll_nvram (cs : List OutCall) : (s.emitAll cs).nvram = s.nvram := rfl
@[simp] theorem State.emitAll_env (cs : List OutCall) : (s.emitAll cs).env = s.env := rfl
@[simp] theorem State.emitAll_inbox (cs : List OutCall) : (s.emitAll cs).inbox = s.inbox := rfl
@[simp] theorem State.emitAll_stamp (cs : List OutCall) : (s.emitAll cs).stamp = s.stamp := rfl
@[simp] theorem State.emitAll_draws (cs : List OutCall) : (s.emitAll cs).draws = s.draws := rfl

/-! ### `State.respond` -/

@[simp] theorem State.respond_cfg (b : Byte) : (s.respond b).cfg = s.cfg := rfl
@[simp] theorem State.respond_cvRaw (b : Byte) : (s.respond b).cvRaw = s.cvRaw := rfl
@[simp] theorem State.respond_cvVolt (b : Byte) : (s.respond b).cvVolt = s.cvVolt := rfl
@[simp] theorem State.respond_egCurrent (b : Byte) : (s.respond b).egCurrent = s.egCurrent := rfl
@[simp] theorem State.respond_egR (b : Byte) : (s.respond b).egR = s.egR := rfl
@[simp] theorem State.respond_egTarget (b : Byte) : (s.respond b).egTarget = s.egTarget := rfl
@[simp] theorem State.respond_lfoCurrent (b : Byte) : (s.respond b).lfoCurrent = s.lfoCurrent := rfl
@[simp] theorem State.respond_lfoHalf (b : Byte) : (s.respond b).lfoHalf = s.lfoHalf := rfl
@[simp] theorem State.respond_lfoPhase (b : Byte) : (s.respond b).lfoPhase = s.lfoPhase := rfl
@[simp] theorem State.respond_lfoTimer (b : Byte) : (s.respond b).lfoTimer = s.lfoTimer := rfl
@[simp] theorem State.respond_rowLatch (b : Byte) : (s.respond b).rowLatch = s.rowLatch := rfl
@[simp] theorem State.respond_octaveHi (b : Byte) : (s.respond b).octaveHi = s.octaveHi := rfl
@[simp] theorem State.respond_encDir (b : Byte) : (s.respond b).encDir = s.encDir := rfl
@[simp] theorem State.respond_irq (b : Byte) : (s.respond b).irq = s.irq := rfl
@[simp] theorem State.respond_editDisplay (b : Byte) :
    (s.respond b).editDisplay = s.editDisplay := rfl
@[simp] theorem State.respond_programDisplay (b : Byte) :
    (s.respond b).programDisplay = s.programDisplay := rfl
@[simp] theorem State.respond_outLatch (b : Byte) : (s.respond b).outLatch = s.outLatch := rfl
@[simp] theorem State.respond_now (b : Byte) : (s.respond b).now = s.now := rfl
@[simp] theorem State.respond_queue (b : Byte) : (s.respond b).queue = s.queue := rfl
@[simp] theorem State.respond_trace (b : Byte) : (s.respond b).trace = s.trace := rfl
@[simp] theorem State.respond_readData (b : Byte) : (s.respond b).readData = some b := rfl
@[simp] theorem State.respond_nvram (b : Byte) : (s.respond b).nvram = s.nvram := rfl
@[simp] theorem State.respond_env (b : Byte) : (s.respond b).env = s.env := rfl
@[simp] theorem State.respond_inbox (b : Byte) : (s.respond b).inbox = s.inbox := rfl
@[simp] theorem State.respond_stamp (b : Byte) : (s.respond b).stamp = s.stamp := rfl
@[simp] theorem State.respond_draws (b : Byte) : (s.respond b).draws = s.draws := rfl

/-! ### `State.setInterruptLine` -/

@[simp] theorem State.setInterruptLine_cfg (b : Bool) : (s.setInterruptLine b).cfg = s.cfg := rfl
@[simp] theorem State.setInterruptLine_cvRaw (b : Bool) :
    (s.setInterruptLine b).cvRaw = s.cvRaw := rfl
@[simp] theorem State.setInterruptLine_cvVolt (b : Bool) :
    (s.setInterruptLine b).cvVolt = s.cvVolt := rfl
@[simp] theorem State.setInterruptLine_egCurrent (b : Bool) :
    (s.setInterruptLine b).egCurrent = s.egCurrent := rfl
@[simp] theorem State.setInterruptLine_egR (b : Bool) : (s.setInterruptLine b).egR = s.egR := rfl
@[simp] theorem State.setInterruptLine_egTarget (b : Bool) :
    (s.setInterruptLine b).egTarget = s.egTarget := rfl
@[simp] theorem State.setInterruptLine_lfoCurrent (b : Bool) :
    (s.setInterruptLine b).lfoCurrent = s.lfoCurrent := rfl
@[simp] theorem State.setInterruptLine_lfoHalf (b : Bool) :
    (s.setInterruptLine b).lfoHalf = s.lfoHalf := rfl
@[simp] theorem State.setInterruptLine_lfoPhase (b : Bool) :
    (s.setInterruptLine b).lfoPhase = s.lfoPhase := rfl
@[simp] theorem State.setInterruptLine_lfoTimer (b : Bool) :
    (s.setInterruptLine b).lfoTimer = s.lfoTimer := rfl
@[simp] theorem State.setInterruptLine_rowLatch (b : Bool) :
    (s.setInterruptLine b).rowLatch = s.rowLatch := rfl
@[simp] theorem State.setInterruptLine_octaveHi (b : Bool) :
    (s.setInterruptLine b).octaveHi = s.octaveHi := rfl
@[simp] theorem State.setInterruptLine_encDir (b : Bool) :
    (s.setInterruptLine b).encDir = s.encDir := rfl
@[simp] theorem State.setInterruptLine_irq (b : Bool) : (s.setInterruptLine b).irq = b := rfl
@[simp] theorem State.setInterruptLine_editDisplay (b : Bool) :
    (s.setInterruptLine b).editDisplay = s.editDisplay := rfl
@[simp] theorem State.setInterruptLine_programDisplay (b : Bool) :
    (s.setInterruptLine b).programDisplay = s.programDisplay := rfl
@[simp] theorem State.setInterruptLine_outLatch (b : Bool) :
    (s.setInterruptLine b).outLatch = s.outLatch := rfl
@[simp] theorem State.setInterruptLine_now (b : Bool) : (s.setInterruptLine b).now = s.now := rfl
@[simp] theorem State.setInterruptLine_queue (b : Bool) :
    (s.setInterruptLine b).queue = s.queue := rfl
@[simp] theorem State.setInterruptLine_trace (b : Bool) :
    (s.setInterruptLine b).trace = s.trace ++ [.setInterruptLine b] := rfl
@[simp] theorem State.setInterruptLine_readData (b : Bool) :
    (s.setInterruptLine b).readData = s.readData := rfl
@[simp] theorem State.setInterruptLine_nvram (b : Bool) :
    (s.setInterruptLine b).nvram = s.nvram := rfl
@[simp] theorem State.setInterruptLine_env (b : Bool) : (s.setInterruptLine b).env = s.env := rfl
@[simp] theorem State.setInterruptLine_inbox (b : Bool) :
    (s.setInterruptLine b).inbox = s.inbox := rfl
@[simp] theorem State.setInterruptLine_stamp (b : Bool) :
    (s.setInterruptLine b).stamp = s.stamp := rfl
@[simp] theorem State.setInterruptLine_draws (b : Bool) :
    (s.setInterruptLine b).draws = s.draws := rfl

/-! ### `State.storeCv` -/

@[simp] theorem State.storeCv_cfg (ch : Fin Config.cvChannels) (d : Byte) :
    (s.storeCv ch d).cfg = s.cfg := rfl
@[simp] theorem State.storeCv_cvRaw (ch : Fin Config.cvChannels) (d : Byte) :
    (s.storeCv ch d).cvRaw = s.cvRaw.set ch d := rfl
@[simp] theorem State.storeCv_cvVolt (ch : Fin Config.cvChannels) (d : Byte) :
    (s.storeCv ch d).cvVolt = s.cvVolt.set ch (voltage d) := rfl
@[simp] theorem State.storeCv_egCurrent (ch : Fin Config.cvChannels) (d : Byte) :
    (s.storeCv ch d).egCurrent = s.egCurrent := rfl
@[simp] theorem State.storeCv_egR (ch : Fin Config.cvChannels) (d : Byte) :
    (s.storeCv ch d).egR = s.egR := rfl
@[simp] theorem State.storeCv_egTarget (ch : Fin Config.cvChannels) (d : Byte) :
    (s.storeCv ch d).egTarget = s.egTarget := rfl
@[simp] theorem State.storeCv_lfoCurrent (ch : Fin Config.cvChannels) (d : Byte) :
    (s.storeCv ch d).lfoCurrent = s.lfoCurrent := rfl
@[simp] theorem State.storeCv_lfoHalf (ch : Fin Config.cvChannels) (d : Byte) :
    (s.storeCv ch d).lfoHalf = s.lfoHalf := rfl
@[simp] theorem State.storeCv_lfoPhase (ch : Fin Config.cvChannels) (d : Byte) :
    (s.storeCv ch d).lfoPhase = s.lfoPhase := rfl
@[simp] theorem State.storeCv_lfoTimer (ch : Fin Config.cvChannels) (d : Byte) :
    (s.storeCv ch d).lfoTimer = s.lfoTimer := rfl
@[simp] theorem State.storeCv_rowLatch (ch : Fin Config.cvChannels) (d : Byte) :
    (s.storeCv ch d).rowLatch = s.rowLatch := rfl
@[simp] theorem State.storeCv_octaveHi (ch : Fin Config.cvChannels) (d : Byte) :
    (s.storeCv ch d).octaveHi = s.octaveHi := rfl
@[simp] theorem State.storeCv_encDir (ch : Fin Config.cvChannels) (d : Byte) :
    (s.storeCv ch d).encDir = s.encDir := rfl
@[simp] theorem State.storeCv_irq (ch : Fin Config.cvChannels) (d : Byte) :
    (s.storeCv ch d).irq = s.irq := rfl
@[simp] theorem State.storeCv_editDisplay (ch : Fin Config.cvChannels) (d : Byte) :
    (s.storeCv ch d).editDisplay = s.editDisplay := rfl
@[simp] theorem State.storeCv_programDisplay (ch : Fin Config.cvChannels) (d : Byte) :
    (s.storeCv ch d).programDisplay = s.programDisplay := rfl
@[simp] theorem State.storeCv_outLatch (ch : Fin Config.cvChannels) (d : Byte) :
    (s.storeCv ch d).outLatch = s.outLatch := rfl
@[simp] theorem State.storeCv_now (ch : Fin Config.cvChannels) (d : Byte) :
    (s.storeCv ch d).now = s.now := rfl
@[simp] theorem State.storeCv_queue (ch : Fin Config.cvChannels) (d : Byte) :
    (s.storeCv ch d).queue = s.queue := rfl
@[simp] theorem State.storeCv_trace (ch : Fin Config.cvChannels) (d : Byte) :
    (s.storeCv ch d).trace = s.trace := rfl
@[simp] theorem State.storeCv_readData (ch : Fin Config.cvChannels) (d : Byte) :
    (s.storeCv ch d).readData = s.readData := rfl
@[simp] theorem State.storeCv_nvram (ch : Fin Config.cvChannels) (d : Byte) :
    (s.storeCv ch d).nvram = s.nvram := rfl
@[simp] theorem State.storeCv_env (ch : Fin Config.cvChannels) (d : Byte) :
    (s.storeCv ch d).env = s.env := rfl
@[simp] theorem State.storeCv_inbox (ch : Fin Config.cvChannels) (d : Byte) :
    (s.storeCv ch d).inbox = s.inbox := rfl
@[simp] theorem State.storeCv_stamp (ch : Fin Config.cvChannels) (d : Byte) :
    (s.storeCv ch d).stamp = s.stamp := rfl
@[simp] theorem State.storeCv_draws (ch : Fin Config.cvChannels) (d : Byte) :
    (s.storeCv ch d).draws = s.draws := rfl

/-! ### `State.scheduleNow` -/

@[simp] theorem State.scheduleNow_cfg (op : Deferred) : (s.scheduleNow op).cfg = s.cfg := rfl
@[simp] theorem State.scheduleNow_cvRaw (op : Deferred) : (s.scheduleNow op).cvRaw = s.cvRaw := rfl
@[simp] theorem State.scheduleNow_cvVolt (op : Deferred) :
    (s.scheduleNow op).cvVolt = s.cvVolt := rfl
@[simp] theorem State.scheduleNow_egCurrent (op : Deferred) :
    (s.scheduleNow op).egCurrent = s.egCurrent := rfl
@[simp] theorem State.scheduleNow_egR (op : Deferred) : (s.scheduleNow op).egR = s.egR := rfl
@[simp] theorem State.scheduleNow_egTarget (op : Deferred) :
    (s.scheduleNow op).egTarget = s.egTarget := rfl
@[simp] theorem State.scheduleNow_lfoCurrent (op : Deferred) :
    (s.scheduleNow op).lfoCurrent = s.lfoCurrent := rfl
@[simp] theorem State.scheduleNow_lfoHalf (op : Deferred) :
    (s.scheduleNow op).lfoHalf = s.lfoHalf := rfl
@[simp] theorem State.scheduleNow_lfoPhase (op : Deferred) :
    (s.scheduleNow op).lfoPhase = s.lfoPhase := rfl
@[simp] theorem State.scheduleNow_lfoTimer (op : Deferred) :
    (s.scheduleNow op).lfoTimer = s.lfoTimer := rfl
@[simp] theorem State.scheduleNow_rowLatch (op : Deferred) :
    (s.scheduleNow op).rowLatch = s.rowLatch := rfl
@[simp] theorem State.scheduleNow_octaveHi (op : Deferred) :
    (s.scheduleNow op).octaveHi = s.octaveHi := rfl
@[simp] theorem State.scheduleNow_encDir (op : Deferred) :
    (s.scheduleNow op).encDir = s.encDir := rfl
@[simp] theorem State.scheduleNow_irq (op : Deferred) : (s.scheduleNow op).irq = s.irq := rfl
@[simp] theorem State.scheduleNow_editDisplay (op : Deferred) :
    (s.scheduleNow op).editDisplay = s.editDisplay := rfl
@[simp] theorem State.scheduleNow_programDisplay (op : Deferred) :
    (s.scheduleNow op).programDisplay = s.programDisplay := rfl
@[simp] theorem State.scheduleNow_outLatch (op : Deferred) :
    (s.scheduleNow op).outLatch = s.outLatch := rfl
@[simp] theorem State.scheduleNow_now (op : Deferred) : (s.scheduleNow op).now = s.now := rfl
@[simp] theorem State.scheduleNow_queue (op : Deferred) :
    (s.scheduleNow op).queue = insertEntry ⟨s.now, s.stamp, op⟩ s.queue := rfl
@[simp] theorem State.scheduleNow_trace (op : Deferred) : (s.scheduleNow op).trace = s.trace := rfl
@[simp] theorem State.scheduleNow_readData (op : Deferred) :
    (s.scheduleNow op).readData = s.readData := rfl
@[simp] theorem State.scheduleNow_nvram (op : Deferred) : (s.scheduleNow op).nvram = s.nvram := rfl
@[simp] theorem State.scheduleNow_env (op : Deferred) : (s.scheduleNow op).env = s.env := rfl
@[simp] theorem State.scheduleNow_inbox (op : Deferred) : (s.scheduleNow op).inbox = s.inbox := rfl
@[simp] theorem State.scheduleNow_stamp (op : Deferred) :
    (s.scheduleNow op).stamp = s.stamp + 1 := rfl
@[simp] theorem State.scheduleNow_draws (op : Deferred) : (s.scheduleNow op).draws = s.draws := rfl

/-! ### `State.armTimer` -/

@[simp] theorem State.armTimer_cfg (a p : Seconds) : (s.armTimer a p).cfg = s.cfg := rfl
@[simp] theorem State.armTimer_cvRaw (a p : Seconds) : (s.armTimer a p).cvRaw = s.cvRaw := rfl
@[simp] theorem State.armTimer_cvVolt (a p : Seconds) : (s.armTimer a p).cvVolt = s.cvVolt := rfl
@[simp] theorem State.armTimer_egCurrent (a p : Seconds) :
    (s.armTimer a p).egCurrent = s.egCurrent := rfl
@[simp] theorem State.armTimer_egR (a p : Seconds) : (s.armTimer a p).egR = s.egR := rfl
@[simp] theorem State.armTimer_egTarget (a p : Seconds) :
    (s.armTimer a p).egTarget = s.egTarget := rfl
@[simp] theorem State.armTimer_lfoCurrent (a p : Seconds) :
    (s.armTimer a p).lfoCurrent = s.lfoCurrent := rfl
@[simp] theorem State.armTimer_lfoHalf (a p : Seconds) : (s.armTimer a p).lfoHalf = s.lfoHalf := rfl
@[simp] theorem State.armTimer_lfoPhase (a p : Seconds) :
    (s.armTimer a p).lfoPhase = s.lfoPhase := rfl
@[simp] theorem State.armTimer_lfoTimer (a p : Seconds) :
    (s.armTimer a p).lfoTimer = .armed a p s.stamp := rfl
@[simp] theorem State.armTimer_rowLatch (a p : Seconds) :
    (s.armTimer a p).rowLatch = s.rowLatch := rfl
@[simp] theorem State.armTimer_octaveHi (a p : Seconds) :
    (s.armTimer a p).octaveHi = s.octaveHi := rfl
@[simp] theorem State.armTimer_encDir (a p : Seconds) : (s.armTimer a p).encDir = s.encDir := rfl
@[simp] theorem State.armTimer_irq (a p : Seconds) : (s.armTimer a p).irq = s.irq := rfl
@[simp] theorem State.armTimer_editDisplay (a p : Seconds) :
    (s.armTimer a p).editDisplay = s.editDisplay := rfl
@[simp] theorem State.armTimer_programDisplay (a p : Seconds) :
    (s.armTimer a p).programDisplay = s.programDisplay := rfl
@[simp] theorem State.armTimer_outLatch (a p : Seconds) :
    (s.armTimer a p).outLatch = s.outLatch := rfl
@[simp] theorem State.armTimer_now (a p : Seconds) : (s.armTimer a p).now = s.now := rfl
@[simp] theorem State.armTimer_queue (a p : Seconds) : (s.armTimer a p).queue = s.queue := rfl
@[simp] theorem State.armTimer_trace (a p : Seconds) : (s.armTimer a p).trace = s.trace := rfl
@[simp] theorem State.armTimer_readData (a p : Seconds) :
    (s.armTimer a p).readData = s.readData := rfl
@[simp] theorem State.armTimer_nvram (a p : Seconds) : (s.armTimer a p).nvram = s.nvram := rfl
@[simp] theorem State.armTimer_env (a p : Seconds) : (s.armTimer a p).env = s.env := rfl
@[simp] theorem State.armTimer_inbox (a p : Seconds) : (s.armTimer a p).inbox = s.inbox := rfl
@[simp] theorem State.armTimer_stamp (a p : Seconds) : (s.armTimer a p).stamp = s.stamp + 1 := rfl
@[simp] theorem State.armTimer_draws (a p : Seconds) : (s.armTimer a p).draws = s.draws := rfl

/-! ### `State.disarmTimer` -/

@[simp] theorem State.disarmTimer_cfg : (s.disarmTimer).cfg = s.cfg := rfl
@[simp] theorem State.disarmTimer_cvRaw : (s.disarmTimer).cvRaw = s.cvRaw := rfl
@[simp] theorem State.disarmTimer_cvVolt : (s.disarmTimer).cvVolt = s.cvVolt := rfl
@[simp] theorem State.disarmTimer_egCurrent : (s.disarmTimer).egCurrent = s.egCurrent := rfl
@[simp] theorem State.disarmTimer_egR : (s.disarmTimer).egR = s.egR := rfl
@[simp] theorem State.disarmTimer_egTarget : (s.disarmTimer).egTarget = s.egTarget := rfl
@[simp] theorem State.disarmTimer_lfoCurrent : (s.disarmTimer).lfoCurrent = s.lfoCurrent := rfl
@[simp] theorem State.disarmTimer_lfoHalf : (s.disarmTimer).lfoHalf = s.lfoHalf := rfl
@[simp] theorem State.disarmTimer_lfoPhase : (s.disarmTimer).lfoPhase = s.lfoPhase := rfl
@[simp] theorem State.disarmTimer_lfoTimer : (s.disarmTimer).lfoTimer = .disarmed := rfl
@[simp] theorem State.disarmTimer_rowLatch : (s.disarmTimer).rowLatch = s.rowLatch := rfl
@[simp] theorem State.disarmTimer_octaveHi : (s.disarmTimer).octaveHi = s.octaveHi := rfl
@[simp] theorem State.disarmTimer_encDir : (s.disarmTimer).encDir = s.encDir := rfl
@[simp] theorem State.disarmTimer_irq : (s.disarmTimer).irq = s.irq := rfl
@[simp] theorem State.disarmTimer_editDisplay : (s.disarmTimer).editDisplay = s.editDisplay := rfl
@[simp] theorem State.disarmTimer_programDisplay :
    (s.disarmTimer).programDisplay = s.programDisplay := rfl
@[simp] theorem State.disarmTimer_outLatch : (s.disarmTimer).outLatch = s.outLatch := rfl
@[simp] theorem State.disarmTimer_now : (s.disarmTimer).now = s.now := rfl
@[simp] theorem State.disarmTimer_queue : (s.disarmTimer).queue = s.queue := rfl
@[simp] theorem State.disarmTimer_trace : (s.disarmTimer).trace = s.trace := rfl
@[simp] theorem State.disarmTimer_readData : (s.disarmTimer).readData = s.readData := rfl
@[simp] theorem State.disarmTimer_nvram : (s.disarmTimer).nvram = s.nvram := rfl
@[simp] theorem State.disarmTimer_env : (s.disarmTimer).env = s.env := rfl
@[simp] theorem State.disarmTimer_inbox : (s.disarmTimer).inbox = s.inbox := rfl
@[simp] theorem State.disarmTimer_stamp : (s.disarmTimer).stamp = s.stamp := rfl
@[simp] theorem State.disarmTimer_draws : (s.disarmTimer).draws = s.draws := rfl

/-! ### `State.moveTo` -/

@[simp] theorem State.moveTo_cfg (t : Seconds) : (s.moveTo t).cfg = s.cfg := rfl
@[simp] theorem State.moveTo_cvRaw (t : Seconds) : (s.moveTo t).cvRaw = s.cvRaw := rfl
@[simp] theorem State.moveTo_cvVolt (t : Seconds) : (s.moveTo t).cvVolt = s.cvVolt := rfl
@[simp] theorem State.moveTo_egCurrent (t : Seconds) : (s.moveTo t).egCurrent = s.egCurrent := rfl
@[simp] theorem State.moveTo_egR (t : Seconds) : (s.moveTo t).egR = s.egR := rfl
@[simp] theorem State.moveTo_egTarget (t : Seconds) : (s.moveTo t).egTarget = s.egTarget := rfl
@[simp] theorem State.moveTo_lfoCurrent (t : Seconds) :
    (s.moveTo t).lfoCurrent = s.lfoCurrent := rfl
@[simp] theorem State.moveTo_lfoHalf (t : Seconds) : (s.moveTo t).lfoHalf = s.lfoHalf := rfl
@[simp] theorem State.moveTo_lfoPhase (t : Seconds) : (s.moveTo t).lfoPhase = s.lfoPhase := rfl
@[simp] theorem State.moveTo_lfoTimer (t : Seconds) : (s.moveTo t).lfoTimer = s.lfoTimer := rfl
@[simp] theorem State.moveTo_rowLatch (t : Seconds) : (s.moveTo t).rowLatch = s.rowLatch := rfl
@[simp] theorem State.moveTo_octaveHi (t : Seconds) : (s.moveTo t).octaveHi = s.octaveHi := rfl
@[simp] theorem State.moveTo_encDir (t : Seconds) : (s.moveTo t).encDir = s.encDir := rfl
@[simp] theorem State.moveTo_irq (t : Seconds) : (s.moveTo t).irq = s.irq := rfl
@[simp] theorem State.moveTo_editDisplay (t : Seconds) :
    (s.moveTo t).editDisplay = s.editDisplay := rfl
@[simp] theorem State.moveTo_programDisplay (t : Seconds) :
    (s.moveTo t).programDisplay = s.programDisplay := rfl
@[simp] theorem State.moveTo_outLatch (t : Seconds) : (s.moveTo t).outLatch = s.outLatch := rfl
@[simp] theorem State.moveTo_now (t : Seconds) :
    (s.moveTo t).now = if s.now < t then t else s.now := rfl
@[simp] theorem State.moveTo_queue (t : Seconds) : (s.moveTo t).queue = s.queue := rfl
@[simp] theorem State.moveTo_trace (t : Seconds) : (s.moveTo t).trace = s.trace := rfl
@[simp] theorem State.moveTo_readData (t : Seconds) : (s.moveTo t).readData = s.readData := rfl
@[simp] theorem State.moveTo_nvram (t : Seconds) : (s.moveTo t).nvram = s.nvram := rfl
@[simp] theorem State.moveTo_env (t : Seconds) : (s.moveTo t).env = s.env := rfl
@[simp] theorem State.moveTo_inbox (t : Seconds) : (s.moveTo t).inbox = s.inbox := rfl
@[simp] theorem State.moveTo_stamp (t : Seconds) : (s.moveTo t).stamp = s.stamp := rfl
@[simp] theorem State.moveTo_draws (t : Seconds) : (s.moveTo t).draws = s.draws := rfl
/-- Moving to a time takes the later of it and the present one. -/
theorem State.moveTo_eq_max (t : Seconds) : s.moveTo t = { s with now := max s.now t } := by
  simp only [State.moveTo, max_def]
  split_ifs <;> first | rfl | (congr 1; linarith)

/-! ### `State.startStep` -/

@[simp] theorem State.startStep_cfg : (s.startStep).cfg = s.cfg := rfl
@[simp] theorem State.startStep_cvRaw : (s.startStep).cvRaw = s.cvRaw := rfl
@[simp] theorem State.startStep_cvVolt : (s.startStep).cvVolt = s.cvVolt := rfl
@[simp] theorem State.startStep_egCurrent : (s.startStep).egCurrent = s.egCurrent := rfl
@[simp] theorem State.startStep_egR : (s.startStep).egR = s.egR := rfl
@[simp] theorem State.startStep_egTarget : (s.startStep).egTarget = s.egTarget := rfl
@[simp] theorem State.startStep_lfoCurrent : (s.startStep).lfoCurrent = s.lfoCurrent := rfl
@[simp] theorem State.startStep_lfoHalf : (s.startStep).lfoHalf = s.lfoHalf := rfl
@[simp] theorem State.startStep_lfoPhase : (s.startStep).lfoPhase = s.lfoPhase := rfl
@[simp] theorem State.startStep_lfoTimer : (s.startStep).lfoTimer = s.lfoTimer := rfl
@[simp] theorem State.startStep_rowLatch : (s.startStep).rowLatch = s.rowLatch := rfl
@[simp] theorem State.startStep_octaveHi : (s.startStep).octaveHi = s.octaveHi := rfl
@[simp] theorem State.startStep_encDir : (s.startStep).encDir = s.encDir := rfl
@[simp] theorem State.startStep_irq : (s.startStep).irq = s.irq := rfl
@[simp] theorem State.startStep_editDisplay : (s.startStep).editDisplay = s.editDisplay := rfl
@[simp] theorem State.startStep_programDisplay :
    (s.startStep).programDisplay = s.programDisplay := rfl
@[simp] theorem State.startStep_outLatch : (s.startStep).outLatch = s.outLatch := rfl
@[simp] theorem State.startStep_now : (s.startStep).now = s.now := rfl
@[simp] theorem State.startStep_queue : (s.startStep).queue = s.queue := rfl
@[simp] theorem State.startStep_trace : (s.startStep).trace = s.trace := rfl
@[simp] theorem State.startStep_readData : (s.startStep).readData = s.readData := rfl
@[simp] theorem State.startStep_nvram : (s.startStep).nvram = s.nvram := rfl
@[simp] theorem State.startStep_env : (s.startStep).env = s.env := rfl
@[simp] theorem State.startStep_inbox : (s.startStep).inbox = s.inbox := rfl
@[simp] theorem State.startStep_stamp : (s.startStep).stamp = s.stamp := rfl
@[simp] theorem State.startStep_draws : (s.startStep).draws = s.draws + 1 := rfl

/-! ### `State.takeInput` -/

@[simp] theorem State.takeInput_cfg : (s.takeInput).cfg = s.cfg := rfl
@[simp] theorem State.takeInput_cvRaw : (s.takeInput).cvRaw = s.cvRaw := rfl
@[simp] theorem State.takeInput_cvVolt : (s.takeInput).cvVolt = s.cvVolt := rfl
@[simp] theorem State.takeInput_egCurrent : (s.takeInput).egCurrent = s.egCurrent := rfl
@[simp] theorem State.takeInput_egR : (s.takeInput).egR = s.egR := rfl
@[simp] theorem State.takeInput_egTarget : (s.takeInput).egTarget = s.egTarget := rfl
@[simp] theorem State.takeInput_lfoCurrent : (s.takeInput).lfoCurrent = s.lfoCurrent := rfl
@[simp] theorem State.takeInput_lfoHalf : (s.takeInput).lfoHalf = s.lfoHalf := rfl
@[simp] theorem State.takeInput_lfoPhase : (s.takeInput).lfoPhase = s.lfoPhase := rfl
@[simp] theorem State.takeInput_lfoTimer : (s.takeInput).lfoTimer = s.lfoTimer := rfl
@[simp] theorem State.takeInput_rowLatch : (s.takeInput).rowLatch = s.rowLatch := rfl
@[simp] theorem State.takeInput_octaveHi : (s.takeInput).octaveHi = s.octaveHi := rfl
@[simp] theorem State.takeInput_encDir : (s.takeInput).encDir = s.encDir := rfl
@[simp] theorem State.takeInput_irq : (s.takeInput).irq = s.irq := rfl
@[simp] theorem State.takeInput_editDisplay : (s.takeInput).editDisplay = s.editDisplay := rfl
@[simp] theorem State.takeInput_programDisplay :
    (s.takeInput).programDisplay = s.programDisplay := rfl
@[simp] theorem State.takeInput_outLatch : (s.takeInput).outLatch = s.outLatch := rfl
@[simp] theorem State.takeInput_now : (s.takeInput).now = s.now := rfl
@[simp] theorem State.takeInput_queue : (s.takeInput).queue = s.queue := rfl
@[simp] theorem State.takeInput_trace : (s.takeInput).trace = s.trace := rfl
@[simp] theorem State.takeInput_readData : (s.takeInput).readData = s.readData := rfl
@[simp] theorem State.takeInput_nvram : (s.takeInput).nvram = s.nvram := rfl
@[simp] theorem State.takeInput_env : (s.takeInput).env = s.env := rfl
@[simp] theorem State.takeInput_inbox : (s.takeInput).inbox = s.inbox.tail := rfl
@[simp] theorem State.takeInput_stamp : (s.takeInput).stamp = s.stamp := rfl
@[simp] theorem State.takeInput_draws : (s.takeInput).draws = s.draws := rfl

/-! ### `State.egPush` -/

@[simp] theorem State.egPush_cfg (c : Contour) (r : Ohms) (t : Volts) :
    (s.egPush c r t).cfg = s.cfg := rfl
@[simp] theorem State.egPush_cvRaw (c : Contour) (r : Ohms) (t : Volts) :
    (s.egPush c r t).cvRaw = s.cvRaw := rfl
@[simp] theorem State.egPush_cvVolt (c : Contour) (r : Ohms) (t : Volts) :
    (s.egPush c r t).cvVolt = s.cvVolt := rfl
@[simp] theorem State.egPush_egCurrent (c : Contour) (r : Ohms) (t : Volts) :
    (s.egPush c r t).egCurrent = s.egCurrent := rfl
@[simp] theorem State.egPush_egR (c : Contour) (r : Ohms) (t : Volts) :
    (s.egPush c r t).egR = s.egR.set c (some r) := rfl
@[simp] theorem State.egPush_egTarget (c : Contour) (r : Ohms) (t : Volts) :
    (s.egPush c r t).egTarget = s.egTarget.set c (some t) := rfl
@[simp] theorem State.egPush_lfoCurrent (c : Contour) (r : Ohms) (t : Volts) :
    (s.egPush c r t).lfoCurrent = s.lfoCurrent := rfl
@[simp] theorem State.egPush_lfoHalf (c : Contour) (r : Ohms) (t : Volts) :
    (s.egPush c r t).lfoHalf = s.lfoHalf := rfl
@[simp] theorem State.egPush_lfoPhase (c : Contour) (r : Ohms) (t : Volts) :
    (s.egPush c r t).lfoPhase = s.lfoPhase := rfl
@[simp] theorem State.egPush_lfoTimer (c : Contour) (r : Ohms) (t : Volts) :
    (s.egPush c r t).lfoTimer = s.lfoTimer := rfl
@[simp] theorem State.egPush_rowLatch (c : Contour) (r : Ohms) (t : Volts) :
    (s.egPush c r t).rowLatch = s.rowLatch := rfl
@[simp] theorem State.egPush_octaveHi (c : Contour) (r : Ohms) (t : Volts) :
    (s.egPush c r t).octaveHi = s.octaveHi := rfl
@[simp] theorem State.egPush_encDir (c : Contour) (r : Ohms) (t : Volts) :
    (s.egPush c r t).encDir = s.encDir := rfl
@[simp] theorem State.egPush_irq (c : Contour) (r : Ohms) (t : Volts) :
    (s.egPush c r t).irq = s.irq := rfl
@[simp] theorem State.egPush_editDisplay (c : Contour) (r : Ohms) (t : Volts) :
    (s.egPush c r t).editDisplay = s.editDisplay := rfl
@[simp] theorem State.egPush_programDisplay (c : Contour) (r : Ohms) (t : Volts) :
    (s.egPush c r t).programDisplay = s.programDisplay := rfl
@[simp] theorem State.egPush_outLatch (c : Contour) (r : Ohms) (t : Volts) :
    (s.egPush c r t).outLatch = s.outLatch := rfl
@[simp] theorem State.egPush_now (c : Contour) (r : Ohms) (t : Volts) :
    (s.egPush c r t).now = s.now := rfl
@[simp] theorem State.egPush_queue (c : Contour) (r : Ohms) (t : Volts) :
    (s.egPush c r t).queue = s.queue := rfl
@[simp] theorem State.egPush_trace (c : Contour) (r : Ohms) (t : Volts) :
    (s.egPush c r t).trace = s.trace ++ [.setResistance (s.cfg.solverRc.get c) r,
      .setTargetVoltage (s.cfg.solverRc.get c) t] := rfl
@[simp] theorem State.egPush_readData (c : Contour) (r : Ohms) (t : Volts) :
    (s.egPush c r t).readData = s.readData := rfl
@[simp] theorem State.egPush_nvram (c : Contour) (r : Ohms) (t : Volts) :
    (s.egPush c r t).nvram = s.nvram := rfl
@[simp] theorem State.egPush_env (c : Contour) (r : Ohms) (t : Volts) :
    (s.egPush c r t).env = s.env := rfl
@[simp] theorem State.egPush_inbox (c : Contour) (r : Ohms) (t : Volts) :
    (s.egPush c r t).inbox = s.inbox := rfl
@[simp] theorem State.egPush_stamp (c : Contour) (r : Ohms) (t : Volts) :
    (s.egPush c r t).stamp = s.stamp := rfl
@[simp] theorem State.egPush_draws (c : Contour) (r : Ohms) (t : Volts) :
    (s.egPush c r t).draws = s.draws := rfl

end Sys2Proof.Machine
end

