-- ==== Sys2Proof/Laws/Exec.lean ====
section
/-! SUPPORT. What each shared operation of the meanings can do: the CV write, the wait states, and
the outcome of every operation as one equation. -/

namespace Sys2Proof.Machine

variable (s : State)

/-- The debit changes the trace alone. -/
theorem State.debitWaitStates_eq (probe : Bool) :
    s.debitWaitStates probe
      = { s with trace := s.trace ++ if probe then [] else [.adjustCycleBudget (-32)] } := by
  cases probe
  · rfl
  · simp [State.debitWaitStates]

/-- A redundant write changes nothing. -/
theorem State.writeCv_redundant {ch : Fin Config.cvChannels} {d : Byte}
    (h : voltage d = s.cvVolt[ch]) : s.writeCv ch d = s := if_pos h

/-- A changed write stores, then dispatches. -/
theorem State.writeCv_changed {ch : Fin Config.cvChannels} {d : Byte}
    (h : voltage d ≠ s.cvVolt[ch]) :
    s.writeCv ch d = (s.storeCv ch d).dispatchCv ch (voltage d) := if_neg h

/-- The dispatch touches the trace, or the queue and the order number, and nothing else. -/
theorem State.dispatchCv_frame (ch : Fin Config.cvChannels) (v : Volts) :
    s.dispatchCv ch v = { s with
      trace := (s.dispatchCv ch v).trace
      queue := (s.dispatchCv ch v).queue
      stamp := (s.dispatchCv ch v).stamp } := by
  unfold State.dispatchCv
  split <;> rfl

/-- A CV write touches the store, the trace, the queue and the order number, and nothing else. -/
theorem State.writeCv_frame (ch : Fin Config.cvChannels) (d : Byte) :
    s.writeCv ch d = { s with
      cvRaw := (s.writeCv ch d).cvRaw
      cvVolt := (s.writeCv ch d).cvVolt
      trace := (s.writeCv ch d).trace
      queue := (s.writeCv ch d).queue
      stamp := (s.writeCv ch d).stamp } := by
  by_cases h : voltage d = s.cvVolt[ch]
  · rw [State.writeCv_redundant s h]
  · rw [State.writeCv_changed s h, State.dispatchCv_frame]
    rfl

/-- `CVW` to an unconnected entry debits at most. -/
theorem execCvw_unconnected (m : BitVec 3) {e : BitVec 5} (d : Byte) (p : Bool)
    (h : Config.cvChannels ≤ e.toNat) :
    execCvw m e d p s = .next (s.debitWaitStates p) := by
  simp [execCvw, channelOf_of_ge h]

/-- `CVW` to a connected entry debits, then writes. -/
theorem execCvw_connected (m : BitVec 3) {e : BitVec 5} (d : Byte) (p : Bool)
    (h : e.toNat < Config.cvChannels) :
    execCvw m e d p s = .next ((s.debitWaitStates p).writeCv ⟨e.toNat, h⟩ d) := by
  simp [execCvw, channelOf_of_lt h]

/-- `EGRC` while the current is not positive logs. -/
theorem execEgrc_skip {c : Contour} (h : s.egCurrent.get c ≤ 0) :
    execEgrc c s = .next (s.emit .log) := if_pos h

/-- `EGRC` with a positive current pushes. -/
theorem execEgrc_push {c : Contour} (h : 0 < s.egCurrent.get c) :
    execEgrc c s = .next (s.egPush c (egResistance s.cfg c (s.egCurrent.get c))
      (egTargetVoltage s.cfg c (s.levelCv c))) := if_neg (not_le.2 h)

/-- `LFORC` with a positive current arms. -/
theorem execLforc_arm (h : 0 < s.lfoCurrent) :
    execLforc s = .next (({ s with lfoHalf := some (lfoHalfPeriod s.cfg s.lfoCurrent) }).armTimer
      (s.now + lfoHalfPeriod s.cfg s.lfoCurrent * s.timerFraction)
      (lfoHalfPeriod s.cfg s.lfoCurrent)) := if_pos h

/-- `LFORC` without a positive current disarms. -/
theorem execLforc_disarm (h : s.lfoCurrent ≤ 0) :
    execLforc s = .next s.disarmTimer := if_neg (not_lt.2 h)

theorem PerContour.get_set_same {α : Type} (p : PerContour α) (c : Contour) (v : α) :
    (p.set c v).get c = v := by cases c <;> rfl

theorem PerContour.get_set_other {α : Type} (p : PerContour α) {c c' : Contour} (v : α)
    (h : c' ≠ c) : (p.set c v).get c' = p.get c' := by cases c <;> cases c' <;> simp_all <;> rfl

/-- The status byte, bit by bit. -/
theorem State.statusByte_getLsbD (i : Fin 8) :
    s.statusByte.getLsbD i
      = xor (s.signal s.cfg.statusMap[i].signal) s.cfg.statusMap[i].inverted :=
  byteOf_getLsbD _ i

/-- A deferral changes the queue and the order number alone. -/
theorem State.scheduleNow_eq (op : Deferred) :
    s.scheduleNow op
      = { s with queue := insertEntry ⟨s.now, s.stamp, op⟩ s.queue, stamp := s.stamp + 1 } := rfl

end Sys2Proof.Machine
end

