-- ==== Sys2Proof/Laws/Memory.lean ====
section
/-! SUPPORT. The battery-backed memory: its canonical form is kept, a read sees the last write to
its offset, and a write leaves every other offset alone. -/

namespace Sys2Proof.Machine

theorem Memory.wf_cons (a : Nat) (v : Byte) (m : Memory) :
    Memory.wf ((a, v) :: m) = true ↔
      v ≠ Config.batteryByte a ∧ (∀ c ∈ m, a < c.1) ∧ Memory.wf m = true := by
  simp [Memory.wf, and_assoc]

/-- Every offset a write leaves in the list was there, or is the one written. -/
theorem Memory.mem_write {m : Memory} {off : Nat} {v : Byte} {c : Host.Cell}
    (h : c ∈ Memory.write m off v) : c ∈ m ∨ c = (off, v) := by
  induction m with
  | nil =>
    simp only [Memory.write] at h
    split at h <;> simp_all
  | cons cell m ih =>
    obtain ⟨a, u⟩ := cell
    simp only [Memory.write] at h
    split_ifs at h <;> simp only [List.mem_cons] at h ⊢ <;> tauto

theorem Memory.write_wf {m : Memory} (off : Nat) (v : Byte) (h : Memory.wf m = true) :
    Memory.wf (Memory.write m off v) = true := by
  induction m with
  | nil =>
    simp only [Memory.write]
    split
    · rfl
    · simp_all [Memory.wf]
  | cons cell m ih =>
    obtain ⟨a, u⟩ := cell
    have hc := (Memory.wf_cons a u m).1 h
    simp only [Memory.write]
    split_ifs with h1 h2 h3 h4
    · exact h
    · refine (Memory.wf_cons _ _ _).2 ⟨h2, ?_, h⟩
      intro c hm
      rcases List.mem_cons.1 hm with rfl | hm
      · exact h1
      · exact lt_trans h1 (hc.2.1 c hm)
    · exact hc.2.2
    · exact (Memory.wf_cons _ _ _).2 ⟨h4, h3 ▸ hc.2.1, hc.2.2⟩
    · refine (Memory.wf_cons _ _ _).2 ⟨hc.1, ?_, ih hc.2.2⟩
      intro c hm
      rcases Memory.mem_write hm with hm | rfl
      · exact hc.2.1 c hm
      · show a < off
        omega

theorem Memory.read_of_lt {m : Memory} {off : Nat} (h : ∀ c ∈ m, off < c.1) :
    Memory.read m off = Config.batteryByte off := by
  induction m with
  | nil => rfl
  | cons cell m ih =>
    obtain ⟨a, u⟩ := cell
    have ha : off < a := h (a, u) (by simp)
    have hne : ¬ a = off := by omega
    simp only [Memory.read, if_neg hne]
    exact ih fun c hc => h c (by simp [hc])

/-- A read of the offset just written gives the byte written. -/
theorem Memory.read_write_same {m : Memory} (off : Nat) (v : Byte) (h : Memory.wf m = true) :
    Memory.read (Memory.write m off v) off = v := by
  induction m with
  | nil =>
    simp only [Memory.write]
    split
    · simp_all [Memory.read]
    · simp [Memory.read]
  | cons cell m ih =>
    obtain ⟨a, u⟩ := cell
    have hc := (Memory.wf_cons a u m).1 h
    simp only [Memory.write]
    split_ifs with h1 h2 h3 h4
    · rw [h2]
      refine Memory.read_of_lt fun c hm => ?_
      rcases List.mem_cons.1 hm with rfl | hm
      · exact h1
      · exact lt_trans h1 (hc.2.1 c hm)
    · simp [Memory.read]
    · rw [h4]
      exact Memory.read_of_lt (h3 ▸ hc.2.1)
    · simp [Memory.read]
    · have hne : ¬ a = off := by omega
      simp only [Memory.read, if_neg hne]
      exact ih hc.2.2

/-- A read of any other offset gives what it gave before. -/
theorem Memory.read_write_other {m : Memory} {off off' : Nat} (v : Byte) (hne : off' ≠ off) :
    Memory.read (Memory.write m off v) off' = Memory.read m off' := by
  have hne' : off ≠ off' := fun e => hne e.symm
  induction m with
  | nil =>
    simp only [Memory.write]
    split <;> simp [Memory.read, hne']
  | cons cell m ih =>
    obtain ⟨a, u⟩ := cell
    simp only [Memory.write]
    split_ifs with h1 h2 h3 h4
    · rfl
    · simp [Memory.read, hne']
    · subst h3
      simp [Memory.read, hne']
    · subst h3
      simp [Memory.read, hne']
    · simp only [Memory.read, ih]

theorem State.resetOf_nvram_wf (cfg : Config) : (State.resetOf cfg).nvram.wf = true := rfl

end Sys2Proof.Machine
end

