-- ==== Sys2Proof/Laws/PerInstr.lean ====
section
/-! SUPPORT. A fact about every operation, one lemma per constructor: an operation has a wire form
just when it is well formed. -/

namespace Sys2Proof.Laws.EncodeDomain

/-- The encoder answers for exactly the well-formed operations. -/
def Statement (i : Instr) : Prop := ∀ cfg, (encode cfg i).isSome = i.wellFormed cfg

theorem read_domain (cfg : Config) (t : Target) (p : Bool) :
    (encodeMemRead cfg t p).isSome = cfg.reaches .read t := by
  simp [encodeMemRead, Config.reaches]

theorem write_domain (cfg : Config) (t : Target) (d : Byte) (p : Bool) :
    (encodeMemWrite cfg t d p).isSome = cfg.reaches .write t := by
  simp [encodeMemWrite, Config.reaches]

theorem cvw (m : BitVec 3) (e : BitVec 5) (d : Byte) (p : Bool) : Statement (.cvw m e d p) :=
  fun _ => rfl
theorem roww (d : Byte) (p : Bool) : Statement (.roww d p) := fun cfg => write_domain cfg _ d p
theorem btnr (g : ColGroup) (p : Bool) : Statement (.btnr g p) := fun cfg => read_domain cfg _ p
theorem kbdr (p : Bool) : Statement (.kbdr p) := fun cfg => read_domain cfg _ p
theorem encr (p : Bool) : Statement (.encr p) := fun cfg => read_domain cfg _ p
theorem edw (d : Byte) (p : Bool) : Statement (.edw d p) := fun cfg => write_domain cfg _ d p
theorem pdw (d : Byte) (p : Bool) : Statement (.pdw d p) := fun cfg => write_domain cfg _ d p
theorem olw (k : Nat) (d : Byte) (p : Bool) : Statement (.olw k d p) :=
  fun cfg => write_domain cfg _ d p
theorem nvr (off : Nat) (p : Bool) : Statement (.nvr off p) := fun cfg => read_domain cfg _ p
theorem nvw (off : Nat) (d : Byte) (p : Bool) : Statement (.nvw off d p) :=
  fun cfg => write_domain cfg _ d p
theorem egnote (c : Contour) (v : Amps) : Statement (.egnote c v) := fun _ => rfl
theorem egrc (c : Contour) : Statement (.egrc c) := fun _ => rfl
theorem lfonote (v : Amps) : Statement (.lfonote v) := fun _ => rfl
theorem lforc : Statement .lforc := fun _ => rfl
theorem lfotick : Statement .lfotick := fun _ => rfl
theorem octchg (raw : Byte) : Statement (.octchg raw) := fun _ => rfl
theorem encmov (o n : EncPos) : Statement (.encmov o n) := fun _ => rfl
theorem reset : Statement .reset := fun _ => rfl

end Sys2Proof.Laws.EncodeDomain
end

