-- ==== Sys2Proof/Laws/Queue.lean ====
section
/-! SUPPORT. The event queue: what an insertion does, and what the earliest pending item is. -/

namespace Sys2Proof.Machine

/-- An insertion splits the queue: no entry ahead is later than the new one, and the first entry
behind it is. -/
theorem insertEntry_split (e : QueueEntry) (q : List QueueEntry) :
    ∃ front back, q = front ++ back ∧ insertEntry e q = front ++ e :: back
      ∧ (∀ x ∈ front, ¬ e.time < x.time) ∧ (∀ x ∈ back.head?, e.time < x.time) := by
  induction q with
  | nil => exact ⟨[], [], by simp [insertEntry]⟩
  | cons x xs ih =>
    by_cases h : e.time < x.time
    · exact ⟨[], x :: xs, by simp [insertEntry, h]⟩
    · obtain ⟨front, back, h1, h2, h3, h4⟩ := ih
      refine ⟨x :: front, back, by simp [h1], by simp [insertEntry, h, h2], ?_, h4⟩
      intro y hy
      rcases List.mem_cons.1 hy with rfl | hy
      · exact h
      · exact h3 y hy

/-- Where no entry is later, the new one goes to the end (first in, first out among ties). -/
theorem insertEntry_append {e : QueueEntry} {q : List QueueEntry} (h : ∀ x ∈ q, ¬ e.time < x.time) :
    insertEntry e q = q ++ [e] := by
  induction q with
  | nil => rfl
  | cons x xs ih =>
    simp only [insertEntry, h x (by simp), if_false, List.cons_append]
    rw [ih fun y hy => h y (by simp [hy])]

theorem mem_insertEntry {e x : QueueEntry} {q : List QueueEntry} :
    x ∈ insertEntry e q ↔ x = e ∨ x ∈ q := by
  obtain ⟨front, back, h1, h2, -, -⟩ := insertEntry_split e q
  rw [h2, h1]
  simp only [List.mem_append, List.mem_cons]
  tauto

/-- The four cases of the earliest pending item. -/
theorem State.earliest_cases {s : State} {p : Pending} (h : s.earliest = some p) :
    (∃ e q, s.queue = e :: q ∧ p = .entry e
      ∧ (∀ n d k, s.lfoTimer = .armed n d k → firingFirst n k e = false))
    ∨ (∃ n d k, s.lfoTimer = .armed n d k ∧ p = .firing n d k
      ∧ (∀ e ∈ s.queue.head?, firingFirst n k e = true)) := by
  unfold State.earliest at h
  split at h
  · simp at h
  · rename_i n d k hq ht
    simp only [Option.some.injEq] at h
    exact .inr ⟨n, d, k, ht, h.symm, by simp [hq]⟩
  · rename_i e q hq ht
    simp only [Option.some.injEq] at h
    exact .inl ⟨e, q, hq, h.symm, by simp [ht]⟩
  · rename_i e q n d k hq ht
    split at h
    · rename_i hf
      simp only [Option.some.injEq] at h
      exact .inr ⟨n, d, k, ht, h.symm, by simp [hq, hf]⟩
    · rename_i hf
      simp only [Option.some.injEq] at h
      refine .inl ⟨e, q, hq, h.symm, ?_⟩
      intro n' d' k' ht'
      rw [ht] at ht'
      cases ht'
      simpa using hf

theorem State.earliest_none {s : State} (h : s.earliest = none) :
    s.queue = [] ∧ s.lfoTimer = .disarmed := by
  unfold State.earliest at h
  split at h
  · exact ⟨by assumption, by assumption⟩
  · simp at h
  · simp at h
  · split at h <;> simp at h

theorem State.dueBy_eq_some {s : State} {t : Seconds} {p : Pending} :
    s.dueBy t = some p ↔ s.earliest = some p ∧ p.time ≤ t := by
  simp [State.dueBy, Option.filter_eq_some_iff]

theorem State.dueBy_eq_none {s : State} {t : Seconds} :
    s.dueBy t = none ↔ ∀ p, s.earliest = some p → t < p.time := by
  simp [State.dueBy, Option.filter_eq_none_iff]

/-- Time that elapses moves to some time that is no later than the earliest pending item's: to the
time asked for, or to that item's. -/
theorem State.elapse_spec (s : State) (t : Seconds) :
    ∃ u, s.elapse t = s.moveTo u ∧ u ≤ t ∧ (∀ p, s.earliest = some p → u ≤ p.time)
      ∧ (u = t ∨ ∃ p, s.earliest = some p ∧ u = p.time) := by
  unfold State.elapse
  split
  · rename_i p hp
    obtain ⟨he, hle⟩ := State.dueBy_eq_some.1 hp
    refine ⟨p.time, rfl, hle, fun q hq => ?_, .inr ⟨p, he, rfl⟩⟩
    rw [he, Option.some.injEq] at hq
    rw [hq]
  · rename_i hn
    exact ⟨t, rfl, le_rfl, fun p hp => le_of_lt (State.dueBy_eq_none.1 hn p hp), .inl rfl⟩

end Sys2Proof.Machine
end

