-- ==== Sys2Proof/Laws/Step.lean ====
section
/-! SUPPORT. What a step can do, said once: the cases of `receive` and of `step`. -/

namespace Sys2Proof.Machine

variable {s t : State}

/-- What is delivered runs the operation it decodes to, or is ignored. -/
theorem receive_cases {w : Wire} (h : receive w s = .next t) :
    (∃ i, decode s.cfg w = .ok i ∧ exec i s = .next t)
      ∨ ∃ r, decode s.cfg w = .error r ∧ t = s.ignore r := by
  unfold receive at h
  split at h
  · exact .inl ⟨_, by assumption, h⟩
  · exact .inr ⟨_, by assumption, by simpa using h.symm⟩

/-- A queue entry's wire decodes to its operation, a firing's to the tick. -/
theorem decode_pending (cfg : Config) (p : Pending) :
    decode cfg p.wire = .ok (match p with
      | .entry e => e.op.toInstr
      | .firing _ _ _ => .lfotick) := by cases p <;> rfl

/-- The delivery of a pending item runs its operation. -/
theorem deliverPending_eq (p : Pending) (s : State) :
    deliverPending p s = exec (match p with
      | .entry e => e.op.toInstr
      | .firing _ _ _ => .lfotick) (s.takePending p) := by
  simp [deliverPending, receive, decode_pending]

/-- A step takes the first action of the inbox, with the draw number moved on. -/
theorem step_of_inbox {a : Input} {rest : List Input} (h : s.inbox = a :: rest) :
    step s = act a s.startStep := by
  simp only [step, stepOnce, h]

/-- The cases of a step: idle, a delivery from outside the scheduler, a delivery by the scheduler,
a directive with nothing due, time that moves no further than the earliest pending item, and a change
of the environment. -/
theorem step_cases (h : step s = .next t) :
    (s.inbox = [] ∧ t = s)
    ∨ (∃ w, (∀ d, w ≠ .queued d) ∧ w ≠ .timer ∧ receive w s.startStep.takeInput = .next t
        ∧ (w = .powerOn → s.inbox.head? = some .powerOn))
    ∨ (∃ p s0, s.earliest = some p ∧ (s0 = s.startStep ∨ s0 = s.startStep.takeInput)
        ∧ deliverPending p s0 = .next t)
    ∨ t = s.startStep.takeInput
    ∨ (∃ u, (∀ p, s.earliest = some p → u ≤ p.time) ∧ t = s.startStep.takeInput.moveTo u)
    ∨ (∃ c, t = { s.startStep.takeInput with env := s.env.apply c }) := by
  simp only [step, stepOnce] at h
  split at h
  · rename_i hi
    exact .inl ⟨hi, by simpa using h.symm⟩
  · rename_i a as hi
    cases a with
    | bus b => exact .inr (.inl ⟨.bus b, by simp, by simp, h, by simp⟩)
    | notify id v => exact .inr (.inl ⟨.notify id v, by simp, by simp, h, by simp⟩)
    | octave raw => exact .inr (.inl ⟨.octave raw, by simp, by simp, h, by simp⟩)
    | encoder o n => exact .inr (.inl ⟨.encoder o n, by simp, by simp, h, by simp⟩)
    | powerOn => exact .inr (.inl ⟨.powerOn, by simp, by simp, h, by simp [hi]⟩)
    | deliver =>
      simp only [act] at h
      split at h
      · rename_i p hp
        exact .inr (.inr (.inl ⟨p, _, hp, .inr rfl, h⟩))
      · exact .inr (.inr (.inr (.inl (by simpa using h.symm))))
    | run =>
      simp only [act] at h
      split at h
      · rename_i p hp
        exact .inr (.inr (.inl ⟨p, _, (State.dueBy_eq_some.1 hp).1, .inl rfl, h⟩))
      · exact .inr (.inr (.inr (.inl (by simpa using h.symm))))
    | advance u =>
      simp only [act] at h
      split at h
      · rename_i p hp
        exact .inr (.inr (.inl ⟨p, _, (State.dueBy_eq_some.1 hp).1, .inl rfl, h⟩))
      · rename_i hn
        exact .inr (.inr (.inr (.inr (.inl ⟨u, fun p hp =>
          le_of_lt (State.dueBy_eq_none.1 hn p hp), by simpa using h.symm⟩))))
    | elapse u =>
      obtain ⟨v, hv, -, hp, -⟩ := State.elapse_spec s.startStep.takeInput u
      simp only [act, hv, Host.Outcome.next.injEq] at h
      exact .inr (.inr (.inr (.inr (.inl ⟨v, hp, h.symm⟩))))
    | set c => exact .inr (.inr (.inr (.inr (.inr ⟨c, by simpa [act] using h.symm⟩))))

end Sys2Proof.Machine
end

