-- ==== Sys2Proof/Tests/Slice0.lean ====
section
/-! SUPPORT. The model's own tests. Expected values are those of 95_test_vectors.md (a test's comment
names the vector) or are worked out by hand from the rule named; addresses and component values are
those of the example configuration EX, which the spec invented for the vectors. -/

namespace Sys2Proof.Tests

open Sys2Proof Sys2Proof.Machine

-- One test after the other: each waits for the kernel, and in the package as one text all of them at
-- once would need more threads than its memory limit has stacks for.
set_option Elab.async false

/-! ### Helpers -/

/-- A board with configuration EX, just after reset. -/
def base : State := State.resetOf Config.ex

/-- EX with one byte of the battery-backed window, which EX itself has not. -/
def exNv : Config := { Config.ex with
  memMap := Config.ex.memMap ++ [⟨0x6000, .read, .nvram 3⟩, ⟨0x6000, .write, .nvram 3⟩] }

/-- What `f` shows of the next state; nothing after a fault or a refusal. -/
def after {α : Type} (o : Host.Outcome State Fault Refusal) (f : State → α) : Option α :=
  match o with
  | .next t => some (f t)
  | .fault _ => none
  | .refused _ => none

/-- `base` with a filter current of 1 uA and a filter level byte of 0xFF. -/
def filterOn : State :=
  { base.storeCv 9 0xFF with egCurrent := ⟨1 / 1000000, 0⟩ }

/-- The LFO running at 100 ms with 60 ms to go, a new current of 100 uA stored, and `ADVANCE 1s` the
environment's next action. -/
def running : State :=
  { base with now := 7 / 50, lfoCurrent := 1 / 10000, lfoHalf := some (1 / 10),
              lfoTimer := .armed (1 / 5) (1 / 10) 0, stamp := 1, inbox := [.advance 1] }

/-- `base` with the solver's answers `v` now and `vf` one millisecond ahead, for the filter. -/
def answered (v vf : Volts) : State :=
  { base with env := { base.env with answers := [⟨7, 0, v⟩, ⟨7, 1 / 1000, vf⟩] } }

/-! ### Well-formedness: the ill-formed is refused -/

/-- EX has one output latch: latch 7 has no address. -/
theorem test_wf_refuses_missing_latch :
    Instr.wellFormed Config.ex (.olw 7 0 false) = false := by decide +kernel
/-- EX maps no battery-backed memory. -/
theorem test_wf_refuses_unmapped_window :
    (Instr.wellFormed Config.ex (.nvr 0 false), Instr.wellFormed Config.ex (.nvw 0 0 false))
      = (false, false) := by decide +kernel
/-- A map that is empty reaches no memory-mapped operation. -/
theorem test_wf_refuses_without_map :
    ([.roww 0 false, .btnr .a false, .btnr .b false, .kbdr false, .encr false, .edw 0 false,
      .pdw 0 false, .olw 0 0 false] : List Instr).map
        (Instr.wellFormed { Config.ex with memMap := [] }) = List.replicate 8 false := by
  decide +kernel
/-- 00_scope.md section 5.2: each constraint on the parameters, broken, is refused. -/
theorem test_config_refuses_broken_constraints :
    ([{ Config.ex with chModRate := 8 },
      { Config.ex with solverOutLfoRate := 4 },
      { Config.ex with egDivMinus := ⟨0, 1⟩ },
      { Config.ex with peakVFall := ⟨5, 4⟩ },
      { Config.ex with lfoC := 0 },
      { Config.ex with kbdGroupWidth := #v[12, 0, 12, 12] },
      { Config.ex with kbdTotalKeys := 47 },
      { Config.ex with kbdDiv2 := 2 },
      { Config.ex with encReadInc := 0 },
      { Config.ex with memMap := [⟨0, .read, .rowLatch⟩] },
      { Config.ex with memMap := [⟨0, .write, .outLatch 1⟩] },
      { Config.ex with cpuClockHz := 0 }] : List Config).map Config.wf
      = List.replicate 12 false := by decide +kernel

/-! ### Decoding: words and events written out from the spec's encodings -/

/-- Rule R62, pattern `aaaeeeee`: `010 01100`; opcode_table.json numbers the address byte first. -/
theorem test_decode_cvw :
    decodeTableWord 8 0b01001100 = some (.cvw 0b010 0b01100 0 false) := by decide +kernel
/-- T2.1.4, T2.1.5, T2.1.10: the alias, the probe bit, and an address above 8 bits. -/
theorem test_decode_cvw_transactions :
    [decodeBus Config.ex (.write .io 0x002C 0x00 false),
      decodeBus Config.ex (.write .io 0x00EC 0x80 true),
      decodeBus Config.ex (.write .io 0x100C 0x10 false)]
    = [.ok (.cvw 1 12 0x00 false), .ok (.cvw 7 12 0x80 true), .ok (.cvw 0 12 0x10 false)] := by
  decide +kernel
/-- T2.5.3, T2.6.1 to T2.6.3: the memory writes of EX's map. -/
theorem test_decode_memory_writes :
    [decodeBus Config.ex (.write .mem 0x4003 0x3B false),
      decodeBus Config.ex (.write .mem 0x4000 0x4A false),
      decodeBus Config.ex (.write .mem 0x4001 0x12 false),
      decodeBus Config.ex (.write .mem 0x4002 0x01 false),
      decodeBus exNv (.write .mem 0x6000 0x77 true)]
    = [.ok (.roww 0x3B false), .ok (.edw 0x4A false), .ok (.pdw 0x12 false),
      .ok (.olw 0 0x01 false), .ok (.nvw 3 0x77 true)] := by decide +kernel
/-- Sections 2.4, 2.5 and T2.7.3: the memory reads of EX's map. -/
theorem test_decode_memory_reads :
    [decodeBus Config.ex (.read .mem 0x4004 false), decodeBus Config.ex (.read .mem 0x4005 false),
      decodeBus Config.ex (.read .mem 0x4006 false), decodeBus Config.ex (.read .mem 0x4007 true),
      decodeBus exNv (.read .mem 0x6000 false)]
    = [.ok (.btnr .a false), .ok (.btnr .b false), .ok (.kbdr false), .ok (.encr true),
      .ok (.nvr 3 false)] := by decide +kernel
/-- Rule R65: the events' tags; EX keeps the solver ids distinct. -/
theorem test_decode_events :
    [decode Config.ex (.notify 5 2), decode Config.ex (.notify 6 2),
      decode Config.ex (.queued (.egrc .filter)), decode Config.ex (.queued .lforc),
      decode Config.ex .timer, decode Config.ex (.octave 2),
      decode Config.ex (.encoder 238 2), decode Config.ex .powerOn]
    = [.ok (.egnote .loudness 2), .ok (.lfonote 2), .ok (.egrc .filter), .ok .lforc, .ok .lfotick,
      .ok (.octchg 2), .ok (.encmov 238 2), .ok .reset] := by decide +kernel
/-- Rule R78, T2.1.12, T2.6.5 to T2.6.7: what the block does not decode. -/
theorem test_decode_rejects :
    [decodeBus Config.ex (.read .io 0x000C false), decodeBus Config.ex (.read .mem 0x4000 false),
      decodeBus Config.ex (.write .mem 0x4006 0x55 false),
      decodeBus Config.ex (.write .mem 0x5000 0x55 false), decodeNotification Config.ex 99 1]
    = [.error .ioRead, .error .unmappedRead, .error .unmappedWrite, .error .unmappedWrite,
      .error .foreignNotification] := by decide +kernel
/-- Log entry 9: bytes that are no frame. -/
theorem test_decode_rejects_frames :
    [decodeBytes Config.ex [0x4C, 0, 0], decodeBytes Config.ex [0x4C, 0, 0, 0x08],
      decodeBytes Config.ex [0x06, 0x40, 1, 0x06]]
    = [.error .truncatedFrame, .error .reservedFrame, .error .reservedFrame] := by decide +kernel
/-- The bytes of `KBDR` on EX: the address, no data, space and direction set. -/
theorem test_encode_kbdr :
    encodeBytes Config.ex (.kbdr false) = some [0x06, 0x40, 0x00, 0x06] := by decide +kernel

/-! ### CV store -/

/-- T2.1.2. -/
theorem test_cvw_changed :
    after (exec (.cvw 0 12 0xFF false) base) (fun t => (t.cvRaw[12], t.cvVolt[12], t.trace))
      = some (0xFF, 10, [.adjustCycleBudget (-32), .setAnalogInput 3 10]) := by decide +kernel
/-- Section 2.1, the level channel: the recompute is queued, and the solver not called. -/
theorem test_cvw_level :
    after (exec (.cvw 0 11 0xFF true) base) (fun t => (t.queue, t.trace))
      = some ([⟨0, 0, .egrc .loudness⟩], []) := by decide +kernel

/-! ### Envelope generators -/

/-- Rule R110: a negative current is stored, and the recompute queued. -/
theorem test_egnote_negative :
    after (exec (.egnote .loudness (-2)) base) (fun t => (t.egCurrent.loudness, t.queue))
      = some (-2, [⟨0, 0, .egrc .loudness⟩]) := by decide +kernel
/-- T2.2.1. -/
theorem test_egrc_zero_current :
    after (exec (.egrc .filter) base) (fun t => (t.egR.filter, t.trace)) = some (none, [.log]) := by
  decide +kernel
/-- T2.2.3. -/
theorem test_egrc_pushes :
    after (exec (.egrc .filter) filterOn) (fun t => (t.egR.filter, t.egTarget.filter, t.trace))
      = some (some (1562500 / 3), some 5,
        [.setResistance 7 (1562500 / 3), .setTargetVoltage 7 5]) := by decide +kernel
/-- T2.2.11 to T2.2.14, T2.2.16, T2.2.17: both edges of the band and its inside. -/
theorem test_peaked_band :
    [(5, 49 / 10), (5, 5), (5, 51 / 10), (47 / 10, 23 / 5), (47 / 10, 24 / 5), (9 / 2, 22 / 5)].map
        (fun p => (answered p.1 p.2).peaked .filter)
      = [true, false, false, true, false, false] := by decide +kernel
/-- T2.2.10, T2.2.20: outside the band. -/
theorem test_peaked_outside :
    ((answered (26 / 5) 0).peaked .filter, (answered 4 0).peaked .filter) = (true, false) := by
  decide +kernel

/-! ### LFO -/

/-- T2.3.1. -/
theorem test_lfonote :
    after (exec (.lfonote (1 / 20000)) base) (fun t => (t.lfoCurrent, t.queue, t.lfoTimer))
      = some (1 / 20000, [⟨0, 0, .lforc⟩], .disarmed) := by decide +kernel
/-- T2.3.4: 60 ms of 100 to go, 30 ms of 50 after. -/
theorem test_lforc_continuity :
    after (exec .lforc running) (fun t => (t.lfoTimer, t.lfoHalf, t.lfoPhase))
      = some (.armed (17 / 100) (1 / 20) 1, some (1 / 20), false) := by decide +kernel
/-- T2.3.7. -/
theorem test_lforc_stops :
    after (exec .lforc { running with lfoCurrent := 0 }) (fun t => (t.lfoTimer, t.lfoHalf))
      = some (.disarmed, some (1 / 10)) := by decide +kernel
/-- Rule R138's worked example. -/
theorem test_lfotick :
    after (exec .lfotick base) (fun t => (t.lfoPhase, t.trace))
      = some (true, [.led .lfo false]) := by decide +kernel
/-- T2.3.12: the timer was armed before the recompute was queued, so that the tick runs first. -/
theorem test_tie_armed_first :
    after (step { running with now := 1 / 5, queue := [⟨1 / 5, 1, .lforc⟩], stamp := 2,
                               inbox := [.run] })
        (fun t => (t.lfoPhase, t.lfoTimer, t.queue.length, t.inbox))
      = some (true, .armed (3 / 10) (1 / 10) 0, 1, [.run]) := by decide +kernel
/-- T2.3.8: time moves and no tick comes when the timer is disarmed. -/
theorem test_advance_idle :
    after (step { base with inbox := [.advance 1] }) (fun t => (t.now, t.lfoPhase, t.inbox))
      = some (1, false, []) := by decide +kernel

/-- Rule R53: time reaches a pending firing without its delivery, and does not pass it; so that a
transaction may run at the firing's time and ahead of it (U6). -/
theorem test_elapse_stops_at_firing :
    after (step { running with inbox := [.elapse 1] })
        (fun t => (t.now, t.lfoPhase, t.lfoTimer, t.inbox))
      = some (1 / 5, false, .armed (1 / 5) (1 / 10) 0, []) := by decide +kernel

/-! ### Keyboard -/

/-- T2.4.2, T2.4.3, T2.4.5, T2.4.7, T2.4.1. -/
theorem test_lowest_key :
    [#v[0x001, 0, 0, 0], #v[0x088, 0, 0, 0], #v[0x800, 0x001, 0, 0], #v[0x1000, 0, 0, 0x800],
      #v[0, 0, 0, 0]].map (resolvePressedKey Config.ex)
      = [some 0, some 3, some 11, some 47, none] := by decide +kernel
/-- Rule R152's worked example. -/
theorem test_key_voltage :
    [some 3, some 0, some 47, none].map (keyVoltage Config.ex) = [65 / 57, 50 / 57, 5, 0] := by
  decide +kernel
/-- Section 2.4: key 3 held and code 28 gives 0x91, 30 gives 0x90 (EX's solver answers 0 V). -/
theorem test_kbdr_comparator :
    [28, 30].map (fun code : Byte => after (exec (.kbdr false)
        { base.storeCv 5 code with env := { base.env with
            keys := #v[0x088, 0, 0, 0]
            answers := [⟨7, 0, 0⟩, ⟨8, 0, 0⟩] } }) (·.readData))
      = [some (some 0x91), some (some 0x90)] := by decide +kernel

/-! ### Front panel -/

/-- T2.5.2, and T2.6.8 under probe. -/
theorem test_roww :
    (after (exec (.roww 0xFD false) base) (·.rowLatch), after (exec (.roww 0x15 true) base)
      (·.rowLatch)) = (some 0b111101, some 0b010101) := by decide +kernel
/-- T2.5.8 and T2.5.9, with the ports of section 2.5. -/
theorem test_btnr :
    (after (exec (.btnr .a false) { base with
        rowLatch := 0b101011
        env := { base.env with buttonsA := #v[0xFF, 0xFF, 0b101111, 0xFF, 0xF7, 0xFF] } })
        (·.readData),
      after (exec (.btnr .a true) { base with
        rowLatch := 0b111011
        env := { base.env with buttonsA := #v[0xFF, 0xFF, 0, 0xFF, 0xFF, 0xFF] } }) (·.readData))
      = (some (some 0xD8), some (some 0xFF)) := by decide +kernel
/-- T2.5.10, T2.5.11, and from LOW T2.5.13, T2.5.15; EX's readings are bits 0 and 1. -/
theorem test_octchg :
    [(true, 0), (true, 2), (false, 3), (false, 1)].map (fun p : Bool × Byte =>
        after (exec (.octchg p.2) { base with octaveHi := p.1 }) (fun t => (t.octaveHi, t.trace)))
      = [some (true, [.led .octaveHi true, .led .octaveLo false]),
        some (false, [.led .octaveHi false, .led .octaveLo true]),
        some (false, [.led .octaveHi false, .led .octaveLo true]),
        some (true, [.led .octaveHi true, .led .octaveLo false])] := by decide +kernel
/-- T2.5.26 to T2.5.33 and T2.5.35: the edges of the guard bands. -/
theorem test_encmov :
    [(230, 9), (229, 0), (230, 10), (9, 230), (10, 230), (9, 229), (0, 9), (239, 230),
        (120, 120)].map
        (fun p : EncPos × EncPos => after (exec (.encmov p.1 p.2) base) (fun t => (t.encDir, t.irq)))
      = [some (.inc, true), some (.dec, true), some (.dec, true), some (.dec, true),
        some (.inc, true), some (.inc, true), some (.inc, true), some (.dec, true),
        some (.dec, true)] := by decide +kernel
/-- T2.7.3, T2.7.5: a probe leaves the interrupt, a read clears it. -/
theorem test_encr :
    (after (exec (.encr true) { base with encDir := .inc, irq := true })
        (fun t => (t.readData, t.irq, t.trace)),
      after (exec (.encr false) { base with encDir := .dec, irq := true })
        (fun t => (t.readData, t.irq, t.trace)))
      = (some (some 1, true, []), some (some 0, false, [.setInterruptLine false])) := by
  decide +kernel

/-! ### Displays, output latches, battery-backed memory -/

/-- T2.6.1. -/
theorem test_edw :
    after (exec (.edw 0x4A false) base) (fun t => (t.editDisplay, t.trace))
      = some (0x4A, [.segments .edit 0 0x77, .segments .edit 1 0x66]) := by decide +kernel
/-- T2.6.2. -/
theorem test_pdw :
    after (exec (.pdw 0x12 false) base) (fun t => (t.programDisplay, t.trace))
      = some (0x12, [.segments .program 0 0x5B, .segments .program 1 0x06]) := by decide +kernel
/-- T2.6.3, T2.6.4. -/
theorem test_olw :
    (after (exec (.olw 0 0x01 false) base) (fun t => (t.outLatch, t.trace)),
      after (exec (.olw 0 0x02 false) base) (·.trace))
      = (some ([0x01], [.flag .sync true, .led (.panel 0) true]),
        some [.flag .sync false, .led (.panel 0) false]) := by decide +kernel
/-- Rule R199: a read gives the byte stored at its offset. -/
theorem test_nvr :
    after (exec (.nvr 3 true) { base with nvram := [(2, 0x22), (3, 0x33)] })
      (fun t => (t.readData, t.trace)) = some (some 0x33, [.nvramRead 3 true]) := by decide +kernel
/-- Rule R199: a write is read back, whatever the battery kept there. -/
theorem test_nvw :
    after (exec (.nvw 3 0x77 false) base) (fun t => (t.nvram.read 3, t.trace))
      = some (0x77, [.nvramWrite 3 0x77 false]) := by
  simp only [exec, execNvw, after, State.emit_nvram, State.emit_trace]
  rw [Memory.read_write_same (m := base.nvram) 3 0x77 (State.resetOf_nvram_wf Config.ex)]
  rfl

/-! ### Reset -/

/-- T2.8.1, from a state with everything in use; the battery-backed memory stays. -/
theorem test_reset :
    after (exec .reset { running with irq := true, octaveHi := false, trace := [.log],
                                      queue := [⟨0, 0, .lforc⟩], nvram := [(3, 0x33)] })
        (fun t => (t.octaveHi, t.irq, t.lfoTimer, t.queue.length, t.trace.length, t.nvram.read 3))
      = some (true, false, .disarmed, 0, 0, 0x33) := by decide +kernel
/-- T2.8.3: nothing is pending after reset. -/
theorem test_reset_has_nothing_due : base.dueBy 10 = none := by decide +kernel

/-! ### Witnesses: the hypotheses of each obligation are met, clause by clause -/

theorem witness_sound : CvStoreSound base := by
  intro i h
  simp [base, State.resetOf, Config.cvReset]

theorem witness_running_inv : Inv running where
  config := Config.ex_wf
  cvStore := witness_sound
  push := fun c => by cases c <;> exact ⟨fun r h => (by cases h), rfl⟩
  halfPositive := fun h e => by
    have e' : some (1 / 10 : Rat) = some h := e
    cases e'
    decide +kernel
  timer := by
    show (7 / 50 : Rat) ≤ 1 / 5 ∧ (1 / 5 : Rat) ≤ 7 / 50 + 1 / 10 ∧ (0 : Rat) < 1 / 10
      ∧ some (1 / 10 : Rat) = some (1 / 10) ∧ 0 < 1
    decide +kernel
  queue := ⟨fun e h => (by cases h), List.Pairwise.nil, fun e h => (by cases h)⟩
  timePositive := by show (0 : Rat) ≤ 7 / 50; decide +kernel
  latches := by decide +kernel
  memory := rfl

/-- CvwChangedWriteStoresByteAndVoltage: the last channel and the least changed byte. -/
theorem witness_changed_write :
    (23 : BitVec 5).toNat < Config.cvChannels
      ∧ 10 * ((1 : Byte).toNat : Rat) / 255 ≠ base.cvVolt[(23 : BitVec 5).toNat] := by
  decide +kernel

/-- CvwRedundantWriteOnlyDebits: a sound store, with both sides of the equivalence. -/
theorem witness_redundant_write :
    CvStoreSound base ∧ (23 : BitVec 5).toNat < Config.cvChannels
      ∧ (0 : Byte) = base.cvRaw[(23 : BitVec 5).toNat]
      ∧ ¬ (1 : Byte) = base.cvRaw[(23 : BitVec 5).toNat] :=
  ⟨witness_sound, by decide, by decide +kernel, by decide +kernel⟩

/-- UnconnectedEntryOnlyDebits: the first and the last entry, and an alias. -/
theorem witness_unconnected :
    24 ≤ (0x0018 : Addr).toNat % 32 ∧ 24 ≤ (0x001F : Addr).toNat % 32
      ∧ 24 ≤ (0x00F8 : Addr).toNat % 32 := by decide

/-- CvwDispatchesByChannelClass: a channel of each class whose byte changes. -/
theorem witness_dispatch :
    [chanClass base.cfg 8, chanClass base.cfg 12, chanClass base.cfg 11, chanClass base.cfg 23]
        = [.egRate .filter, .lfoRate, .egLevel .loudness, .plain]
      ∧ (∀ ch : Fin Config.cvChannels, 10 * ((1 : Byte).toNat : Rat) / 255 ≠ base.cvVolt[ch]) := by
  decide +kernel

/-- NamedChannelsHaveTheirClasses, DecodeOfEncodeIsTheOperation, KeyVoltageIsAffineInKey: EX meets
the constraints; the key at both ends, with a positive reference. -/
theorem witness_config :
    Config.ex.wf = true ∧ (0 : Nat) < 47 ∧ 47 < Config.ex.kbdTotalKeys ∧ 0 < Config.ex.kbdVref := by
  decide +kernel

/-- CvStoreInvariantHoldsAfterEveryOperation, CvwTwiceLeavesTheStateOfOnce: a write answers. -/
theorem witness_write_answers :
    CvStoreSound base ∧ ∃ t, exec (.cvw 1 23 0xFF false) base = .next t := ⟨witness_sound, _, rfl⟩

/-- EgrcSkipsNonPositiveCurrent: zero, and below. -/
theorem witness_nonpositive_current :
    base.egCurrent.get .filter ≤ 0
      ∧ ({ base with egCurrent := ⟨0, -1⟩ } : State).egCurrent.get .loudness ≤ 0 := by decide +kernel

/-- EgrcPushesResistanceAndTarget. -/
theorem witness_positive_current : 0 < filterOn.egCurrent.get .filter := by decide +kernel

/-- EgrcResistanceTimesCurrentIsConstant. -/
theorem witness_egrc_law :
    ({ base with egCurrent := ⟨1, 1⟩ } : State).cfg.wf = true
      ∧ CvStoreSound { base with egCurrent := ⟨1, 1⟩ }
      ∧ 0 < ({ base with egCurrent := ⟨1, 1⟩ } : State).egCurrent.get .loudness :=
  ⟨Config.ex_wf, witness_sound, by decide +kernel⟩

/-- ContoursAreIndependent: both operations answer. -/
theorem witness_contours :
    Contour.loudness ≠ .filter ∧ (∃ t, exec (.egrc .filter) filterOn = .next t)
      ∧ ∃ t, exec (.egnote .filter 1) base = .next t := by
  refine ⟨by decide, ⟨_, execEgrc_push _ witness_positive_current⟩, ⟨_, rfl⟩⟩

/-- LforcKeepsPhaseContinuity; LforcArmsTimerWithScaledRemainder: armed, and disarmed. -/
theorem witness_lforc :
    Inv running ∧ 0 < running.lfoCurrent ∧ running.lfoTimer = .armed (1 / 5) (1 / 10) 0
      ∧ ({ base with lfoCurrent := 1 } : State).lfoTimer = .disarmed
      ∧ 0 < ({ base with lfoCurrent := 1 } : State).lfoCurrent :=
  ⟨witness_running_inv, by decide +kernel⟩

/-- LforcDisarmsTimerWithoutPositiveCurrent: zero, and below. -/
theorem witness_lforc_stop :
    base.lfoCurrent ≤ 0 ∧ ({ running with lfoCurrent := -3 } : State).lfoCurrent ≤ 0 := by
  decide +kernel

/-- LfotickTogglesPhaseAndLed, second clause. -/
theorem witness_tick : decode Config.ex .timer = .ok .lfotick := rfl

/-- FiringTicksAndMovesOnePeriodOn: a firing to come, and one due at this instant. -/
theorem witness_firing :
    ({ running with inbox := [.deliver] } : State).inbox = [.deliver] ∧ running.queue = []
      ∧ running.now ≤ 1 / 5 ∧ ({ running with now := 1 / 5 } : State).now ≤ 1 / 5 := by
  decide +kernel

/-- PeakedOutsideBandIgnoresTrend: above, below, and both edges of the band with two answers ahead of
one trend. -/
theorem witness_peaked_outside :
    base.cfg.peakVRise.get .filter < (answered (26 / 5) 0).queryVoltage 7 0
      ∧ (answered 4 0).queryVoltage 7 0 < base.cfg.peakVFall.get .filter
      ∧ [(5, 4, 3), (9 / 2, 4, 3), (5, 5, 6)].all (fun p : Rat × Rat × Rat =>
          decide (base.cfg.peakVFall.get .filter ≤ p.1)
            && decide (p.1 ≤ base.cfg.peakVRise.get .filter)
            && (decide (p.2.1 < p.1) == decide (p.2.2 < p.1))) = true := by decide +kernel

/-- PeakedInsideBandFollowsTrend: both edges of the band, falling and flat. -/
theorem witness_peaked_inside :
    [(5, 49 / 10), (5, 5), (9 / 2, 22 / 5), (9 / 2, 9 / 2)].all (fun p : Rat × Rat =>
      decide ((answered p.1 p.2).queryVoltage 7 0 = p.1)
        && decide ((answered p.1 p.2).queryVoltage 7 (0 + 1 / 1000) = p.2)
        && decide (Config.ex.peakVFall.filter ≤ p.1) && decide (p.1 ≤ Config.ex.peakVRise.filter))
      = true := by decide +kernel

/-- LowestPressedKeyWins: keys 3 and 7 of group 0, and the top key of group 3. -/
theorem witness_pressed :
    Pressed Config.ex #v[0x088, 0, 0, 0x800] 3 ∧ Pressed Config.ex #v[0x088, 0, 0, 0x800] 7
      ∧ Pressed Config.ex #v[0x088, 0, 0, 0x800] 47 :=
  ⟨⟨0, 3, by decide +kernel⟩, ⟨0, 7, by decide +kernel⟩, ⟨3, 11, by decide +kernel⟩⟩

/-- RowwStoresLowSixBitsActiveLow: two bytes of one low field. -/
theorem witness_row_field : (0xFE : Byte).toNat % 64 = (0x3E : Byte).toNat % 64 := by decide

/-- OctchgFollowsSetAndReset: Set alone, Reset alone, both, neither. -/
theorem witness_octave :
    ([0, 1, 2, 3] : List Byte).map (fun raw =>
        (decide (raw ∈ Config.ex.octSetReadings), decide (raw ∈ Config.ex.octResetReadings)))
      = [(false, false), (true, false), (false, true), (true, true)] := by decide +kernel

/-- EncmovDerivesDirectionWithWrap: the edges of both wraps, and a pair just outside each. -/
theorem witness_encoder :
    (230 ≤ (230 : EncPos).val ∧ (9 : EncPos).val < 10)
      ∧ ((9 : EncPos).val < 10 ∧ 230 ≤ (230 : EncPos).val)
      ∧ ¬ (230 ≤ (229 : EncPos).val ∧ (0 : EncPos).val < 10)
      ∧ ¬ ((229 : EncPos).val < 10 ∧ 230 ≤ (0 : EncPos).val) := by decide

/-- EncrReturnsDirectionAndClearsInterrupt, second clause; MemoryAccessesReachTheirHandlers, every
clause, on EX with a byte of battery-backed memory. -/
theorem witness_map :
    [exNv.memDecode 0x4004 .read, exNv.memDecode 0x4005 .read, exNv.memDecode 0x4006 .read,
      exNv.memDecode 0x4007 .read, exNv.memDecode 0x6000 .read, exNv.memDecode 0x6000 .write,
      exNv.memDecode 0x4000 .write, exNv.memDecode 0x4001 .write, exNv.memDecode 0x4003 .write,
      exNv.memDecode 0x4002 .write]
    = [.buttons .a, .buttons .b, .keyboard, .encoder, .nvram 3, .nvram 3, .editDisplay,
      .programDisplay, .rowLatch, .outLatch 0] := by decide +kernel

/-- DisplayWriteDrivesTwoDigits: the highest digits, and two different ones. -/
theorem witness_digits :
    (0xFF : Byte).toNat = 16 * (15 : Fin Config.segEntries).val + (15 : Fin Config.segEntries).val
      ∧ (0x4A : Byte).toNat
        = 16 * (4 : Fin Config.segEntries).val + (10 : Fin Config.segEntries).val := by decide

/-- OlwStoresByteAndProjectsBits: the latch EX has, and the first it has not. -/
theorem witness_latch :
    (0 : Nat) < base.outLatch.length ∧ (base.cfg.outBits[0]?).isSome = true
      ∧ base.cfg.outBits[1]? = none ∧ (1 : Nat) ≠ 0 := by decide +kernel

/-- NvramWindowIsForwarded. -/
theorem witness_nvram : base.nvram.wf = true ∧ (4 : Nat) ≠ 3 := ⟨rfl, by decide⟩

/-- RegistersAreWrittenOnlyByTheirOperations, OutboundCallsComeOnlyFromTheirOperations,
OperationsLeaveTheOutsideAlone: an operation that writes none of the registers named but the row
latch answers, and it is none of the others. -/
theorem witness_registers :
    (∃ t, exec (.roww 0x3E false) base = .next t) ∧ Instr.roww 0x3E false ≠ .reset
      ∧ (∀ m e d p, Instr.roww 0x3E false ≠ .cvw m e d p)
      ∧ (∀ off d p, Instr.roww 0x3E false ≠ .nvw off d p) :=
  ⟨⟨_, rfl⟩, by decide, by intros; simp, by intros; simp⟩

/-- EveryStepKeepsTheInvariant, InterruptLineMirrorsIrq, TimeNeverDecreases: a sound state whose step
delivers the firing. -/
theorem witness_step :
    Inv running ∧ lineLevel running.trace = running.irq
      ∧ after (step running) (fun t => (t.now, t.lfoPhase)) = some (1 / 5, true)
      ∧ running.inbox.head? ≠ some .powerOn :=
  ⟨witness_running_inv, by decide +kernel⟩

/-- DeferralsQueueFirstInFirstOut: from a sound state each deferring operation answers, and the level
channel's byte changes. -/
theorem witness_deferrals :
    Inv running ∧ (∃ t, exec (.egnote .filter 1) running = .next t)
      ∧ (∃ t, exec (.lfonote 1) running = .next t)
      ∧ (∃ t, exec (.cvw 0 11 1 false) running = .next t)
      ∧ chanClass running.cfg 11 = .egLevel .loudness
      ∧ (1 : Byte) ≠ running.cvRaw[(11 : BitVec 5).toNat] :=
  ⟨witness_running_inv, ⟨_, rfl⟩, ⟨_, rfl⟩, ⟨_, rfl⟩, by decide +kernel, by decide +kernel⟩

/-- SchedulerDeliversEarliestFirst: an earlier firing, a later one, and a tie of either order; and the
timer disarmed, for a delivery and for `RUN` with an entry of this very instant. -/
theorem witness_scheduler :
    let s : State := { running with inbox := [.deliver], queue := [⟨1 / 5, 1, .lforc⟩] }
    let r : State := { base with inbox := [.run], queue := [⟨0, 0, .egrc .filter⟩] }
    s.inbox = [.deliver] ∧ s.queue = [⟨1 / 5, 1, .lforc⟩]
      ∧ s.lfoTimer = .armed (1 / 5) (1 / 10) 0
      ∧ ((1 / 5 : Rat) = (⟨1 / 5, 1, .lforc⟩ : QueueEntry).time
        ∧ 0 < (⟨1 / 5, 1, .lforc⟩ : QueueEntry).stamp)
      ∧ ((1 / 5 : Rat) < (⟨1 / 4, 1, .lforc⟩ : QueueEntry).time)
      ∧ ((⟨7 / 50, 0, .lforc⟩ : QueueEntry).time < 1 / 5)
      ∧ (⟨1 / 5, 0, .lforc⟩ : QueueEntry).stamp ≤ 0
      ∧ r.inbox = [.run] ∧ r.queue = [⟨0, 0, .egrc .filter⟩] ∧ r.lfoTimer = .disarmed
      ∧ (⟨0, 0, .egrc .filter⟩ : QueueEntry).time ≤ r.now := by decide +kernel

/-- AdvanceDeliversEverythingDue: an item due by the time and at it, and none, the item later. -/
theorem witness_advance :
    running.earliest = some (.firing (1 / 5) (1 / 10) 0)
      ∧ (Pending.firing (1 / 5) (1 / 10) 0).time ≤ 1 / 5
      ∧ after (step { running with inbox := [.advance (1 / 5)] }) (·.inbox) = some [.advance (1 / 5)]
      ∧ 3 / 20 < (Pending.firing (1 / 5) (1 / 10) 0).time
      ∧ after (step { running with inbox := [.advance (3 / 20)] }) (·.inbox) = some [] := by
  decide +kernel

/-- RunDeliversEverythingDueNow: an item due at this instant, and one still to come. -/
theorem witness_run :
    ({ running with now := 1 / 5, inbox := [.run] } : State).dueBy (1 / 5)
        = some (.firing (1 / 5) (1 / 10) 0)
      ∧ ({ running with inbox := [.run] } : State).dueBy (7 / 50) = none := by decide +kernel

/-- ElapsingTimeStopsAtPendingItem: nothing pending, and a pending firing sooner and later than the
time. -/
theorem witness_elapse :
    ({ base with inbox := [.elapse 1] } : State).earliest = none
      ∧ running.earliest = some (.firing (1 / 5) (1 / 10) 0)
      ∧ after (step { base with inbox := [.elapse 1] }) (·.now) = some 1
      ∧ after (step { running with inbox := [.elapse (3 / 20)] }) (·.now) = some (3 / 20) := by
  decide +kernel

/-- TransactionRunsBeforeOrAfterDueFiring: both inboxes, with a CV write that decodes. -/
theorem witness_both_orders :
    let b : BusTxn := .write .io 0x000C 0xFF false
    running.queue = [] ∧ running.lfoTimer = .armed (1 / 5) (1 / 10) 0 ∧ running.now ≤ 1 / 5
      ∧ decodeBus running.cfg b = .ok (.cvw 0 12 0xFF false)
      ∧ ({ running with inbox := [.elapse (1 / 5), .bus b] } : State).inbox
        = [.elapse (1 / 5), .bus b]
      ∧ ({ running with inbox := [.deliver, .bus b] } : State).inbox = [.deliver, .bus b] := by
  decide +kernel

/-- StepRunsTheDecodedOperation: a transaction, a notification, and a word placed for the step. -/
theorem witness_step_decodes :
    decodeBus Config.ex (.write .io 0x000C 0xFF false) = .ok (.cvw 0 12 0xFF false)
      ∧ decodeNotification Config.ex 4 1 = .ok (.egnote .filter 1)
      ∧ decodeFrame (BitVec.ofNat 32 (0x4C % 2 ^ 8)) = .ok (.write .io 0x004C 0 false)
      ∧ decodeBus Config.ex (.write .io 0x004C 0 false) = .ok (.cvw 2 12 0 false) := by
  decide +kernel

/-- UndecodedAccessesChangeNothing: an unmapped read, an unmapped write, and a foreign id. -/
theorem witness_undecoded :
    Config.ex.memDecode 0x4000 .read = .unmapped ∧ Config.ex.memDecode 0x4006 .write = .unmapped
      ∧ (∀ c : Contour, (99 : SolverId) ≠ Config.ex.solverOutRate.get c)
      ∧ (99 : SolverId) ≠ Config.ex.solverOutLfoRate :=
  ⟨by decide +kernel, by decide +kernel, by intro c; cases c <;> decide, by decide⟩

/-- DecodeOfEncodeIsTheOperation, DecodeOfEncodedBytesIsTheOperation,
DecodingIsUnambiguousAndWellFormed: a well-formed memory-mapped operation, its bytes, its frame. -/
theorem witness_round_trip :
    Instr.wellFormed Config.ex (.olw 0 0x01 false) = true
      ∧ encodeBytes Config.ex (.olw 0 0x01 false) = some [0x02, 0x40, 0x01, 0x02]
      ∧ decodeFrame 0x02014002 = .ok (.write .mem 0x4002 0x01 false)
      ∧ decode Config.ex (.bus (.write .mem 0x4002 0x01 false)) = .ok (.olw 0 0x01 false) := by
  decide +kernel

end Sys2Proof.Tests
end

