-- ==== Sys2Proof/Proofs/CvStoreInvariant.lean ====
section
/-! PROOF. The CV store's invariant (10_state.md rule R11): the one operation that writes the store
keeps it, power-on establishes it, and every other operation leaves the store alone. -/

namespace Sys2Proof.Machine

variable {s t : State}

/-! ### What the parts of a CV write do to the store -/

@[simp] theorem State.debitWaitStates_cvRaw (s : State) (probe : Bool) :
    (s.debitWaitStates probe).cvRaw = s.cvRaw := by rw [State.debitWaitStates_eq]

@[simp] theorem State.debitWaitStates_cvVolt (s : State) (probe : Bool) :
    (s.debitWaitStates probe).cvVolt = s.cvVolt := by rw [State.debitWaitStates_eq]

@[simp] theorem State.dispatchCv_cvRaw (s : State) (ch : Fin Config.cvChannels) (v : Volts) :
    (s.dispatchCv ch v).cvRaw = s.cvRaw := by rw [State.dispatchCv_frame]

@[simp] theorem State.dispatchCv_cvVolt (s : State) (ch : Fin Config.cvChannels) (v : Volts) :
    (s.dispatchCv ch v).cvVolt = s.cvVolt := by rw [State.dispatchCv_frame]

/-! ### The invariant under each change of the store -/

/-- The invariant speaks of the store alone. -/
theorem CvStoreSound.of_same_store (hs : CvStoreSound s) (hraw : t.cvRaw = s.cvRaw)
    (hvolt : t.cvVolt = s.cvVolt) : CvStoreSound t := by
  intro i hi
  simpa only [hraw, hvolt] using hs i hi

/-- Byte and voltage are stored together (40_cv_store.md rule R95), so the pair stays in step. -/
theorem CvStoreSound.storeCv (hs : CvStoreSound s) (ch : Fin Config.cvChannels) (d : Byte) :
    CvStoreSound (s.storeCv ch d) := by
  intro i hi
  by_cases hch : ch.val = i
  · simp [hch, voltage_eq]
  · simpa [hch] using hs i hi

theorem CvStoreSound.writeCv (hs : CvStoreSound s) (ch : Fin Config.cvChannels) (d : Byte) :
    CvStoreSound (s.writeCv ch d) := by
  by_cases hsame : voltage d = s.cvVolt[ch]
  · rwa [State.writeCv_redundant s hsame]
  · rw [State.writeCv_changed s hsame]
    exact (hs.storeCv ch d).of_same_store (by simp) (by simp)

theorem execCvw_keeps_cvStoreSound (m : BitVec 3) {e : BitVec 5} {d : Byte} {p : Bool}
    (hs : CvStoreSound s) (h : execCvw m e d p s = .next t) : CvStoreSound t := by
  have hdebit : CvStoreSound (s.debitWaitStates p) := hs.of_same_store (by simp) (by simp)
  by_cases he : e.toNat < Config.cvChannels
  · rw [execCvw_connected s m d p he] at h
    cases h
    exact hdebit.writeCv _ d
  · rw [execCvw_unconnected s m d p (not_lt.1 he)] at h
    cases h
    exact hdebit

/-- Every channel at its reset byte 0 and at 0 volts (70_reset_and_hazards.md rule R240). -/
theorem cvStoreSound_of_reset_store
    (hraw : t.cvRaw = Vector.replicate Config.cvChannels Config.cvReset)
    (hvolt : t.cvVolt = Vector.replicate Config.cvChannels 0) : CvStoreSound t := by
  intro i hi
  simp [hraw, hvolt, Config.cvReset]

/-! ### All operations -/

/-- No operation but a CV write and power-on writes the store. -/
theorem exec_leaves_cvStore {i : Instr} (hcvw : ∀ m e d p, i ≠ .cvw m e d p) (hreset : i ≠ .reset)
    (h : exec i s = .next t) : t.cvRaw = s.cvRaw ∧ t.cvVolt = s.cvVolt := by
  cases i with
  | cvw m e d p => exact absurd rfl (hcvw m e d p)
  | reset => exact absurd rfl hreset
  | roww | btnr | kbdr | edw | pdw | olw | nvr | nvw | egnote | lfonote | lfotick | octchg
  | encmov =>
    cases h
    exact ⟨rfl, rfl⟩
  | encr probe => cases probe <;> cases h <;> exact ⟨rfl, rfl⟩
  | egrc c =>
    change execEgrc c s = .next t at h
    rcases le_or_gt (s.egCurrent.get c) 0 with hcur | hcur
    · rw [execEgrc_skip s hcur] at h
      cases h
      exact ⟨rfl, rfl⟩
    · rw [execEgrc_push s hcur] at h
      cases h
      exact ⟨rfl, rfl⟩
  | lforc =>
    change execLforc s = .next t at h
    rcases le_or_gt s.lfoCurrent 0 with hcur | hcur
    · rw [execLforc_disarm s hcur] at h
      cases h
      exact ⟨rfl, rfl⟩
    · rw [execLforc_arm s hcur] at h
      cases h
      exact ⟨rfl, rfl⟩

theorem exec_keeps_cvStoreSound {i : Instr} (hs : CvStoreSound s) (h : exec i s = .next t) :
    CvStoreSound t := by
  cases i with
  | cvw m e d p => exact execCvw_keeps_cvStoreSound m hs h
  | reset =>
    cases h
    exact cvStoreSound_of_reset_store rfl rfl
  | _ =>
    obtain ⟨hraw, hvolt⟩ := exec_leaves_cvStore (by simp) (by simp) h
    exact hs.of_same_store hraw hvolt

/-- Settles O7: the reset store is sound, and every operation keeps a sound store sound. -/
theorem cvStoreInvariantHoldsAfterEveryOperation :
    Obligations.CvStoreInvariantHoldsAfterEveryOperation :=
  ⟨cvStoreSound_of_reset_store rfl rfl, fun _ _ _ hs h => exec_keeps_cvStoreSound hs h⟩

end Sys2Proof.Machine
end

