-- ==== Sys2Proof/Proofs/IoSpace.lean ====
section
/-! PROOF. The I/O space (20_memory.md rule R41, 30_encoding.md rule R62): what the two fields of a
write's address are as numbers, which channel an entry selects, and that the field `a[7:5]` is
ignored. -/

namespace Sys2Proof.Machine

/-! ### The fields of an I/O address -/

/-- The entry is `addr mod 32`: the I/O space's own reduction to 8 bits keeps the low five. -/
theorem ioEntry_ioAddress_toNat (a : Addr) : (ioEntry (ioAddress a)).toNat = a.toNat % 32 := by
  simp only [ioEntry, ioAddress, BitVec.extractLsb'_toNat, Nat.shiftRight_zero]
  exact Nat.mod_mod_of_dvd a.toNat (by decide : 2 ^ 5 ∣ 2 ^ 8)

/-- The ignored field is the three bits above the entry. -/
theorem ioMirror_ioAddress_toNat (a : Addr) :
    (ioMirror (ioAddress a)).toNat = a.toNat / 32 % 8 := by
  simp only [ioMirror, ioAddress, BitVec.extractLsb'_toNat,
    Nat.shiftRight_eq_div_pow]
  omega

/-! ### The channel an entry selects -/

theorem channelOf_eq_some_iff {e : BitVec 5} {ch : Fin Config.cvChannels} :
    channelOf e = some ch ↔ ch.val = e.toNat := by
  by_cases he : e.toNat < Config.cvChannels
  · rw [channelOf_of_lt he, Option.some.injEq, Fin.ext_iff]
    exact eq_comm
  · have hne : ch.val ≠ e.toNat := fun h => he (h ▸ ch.isLt)
    simp [channelOf_of_ge (not_lt.1 he), hne]

theorem channelOf_eq_none_iff {e : BitVec 5} :
    channelOf e = none ↔ Config.cvChannels ≤ e.toNat := by
  by_cases he : e.toNat < Config.cvChannels
  · simp [channelOf_of_lt he, he]
  · simp [channelOf_of_ge (not_lt.1 he), not_lt.1 he]

/-! ### The ignored field -/

/-- Writes that differ in the ignored field alone have one outcome: the meaning of `CVW` takes the
field and never reads it. -/
theorem execCvw_ignores_mirror (s : State) (m m' : BitVec 3) (e : BitVec 5) (d : Byte) (p : Bool) :
    execCvw m e d p s = execCvw m' e d p s := rfl

/-- Settles O50: the entry is the low five address bits, 24 channels are connected, and the field
above the entry changes nothing. -/
theorem everyIoWriteIsACvw : Obligations.EveryIoWriteIsACvw := by
  refine ⟨?decoded, fun _ _ => channelOf_eq_some_iff, fun _ => channelOf_eq_none_iff,
    execCvw_ignores_mirror, fun _ _ _ => rfl⟩
  case decoded =>
    intro cfg a d p
    exact ⟨ioMirror (ioAddress a), ioEntry (ioAddress a), rfl, ioEntry_ioAddress_toNat a,
      ioMirror_ioAddress_toNat a⟩

end Sys2Proof.Machine
end

