-- ==== Sys2Proof/Proofs/ButtonMatrix.lean ====
section
/-! PROOF. The row latch and the column read-back (30_encoding.md rules R68, R69): which bytes store
one row field, what the two operations answer, and the column byte they make together. -/

namespace Sys2Proof.Machine

/-! ### The row field of a written byte -/

theorem rowField_toNat (d : Byte) : (rowField d).toNat = d.toNat % 64 := by
  simp only [rowField, BitVec.extractLsb'_toNat, Nat.shiftRight_zero, Config.rowBits, Nat.reducePow]

/-- Two bytes store one row field just when they differ at most in the two ignored bits. -/
theorem rowField_eq_iff {d d' : Byte} :
    rowField d = rowField d' ↔ d.toNat % 64 = d'.toNat % 64 := by
  rw [← BitVec.toNat_inj, rowField_toNat, rowField_toNat]

/-! ### What the two operations answer -/

theorem exec_roww (d : Byte) (p : Bool) (s : State) :
    exec (.roww d p) s = .next { s with rowLatch := rowField d } := rfl

theorem exec_btnr (g : ColGroup) (p : Bool) (s : State) :
    exec (.btnr g p) s = .next (s.respond (columnByte s.rowLatch (s.env.buttons g))) := rfl

/-- Under the row field of a byte, a row is active just when its bit in that byte is 0. -/
theorem columnByte_rowField_getLsbD (d : Byte) (ports : Vector Byte Config.rowBits) (j : Nat)
    (hj : j < 6) :
    (columnByte (rowField d) ports).getLsbD j = true ↔
      ∃ r : Fin Config.rowBits, d.getLsbD r = false ∧ (ports[r]).getLsbD j = false := by
  simp only [columnByte_getLsbD _ _ j hj, rowField_getLsbD]

/-! ### The obligations -/

/-- Settles O26: the latch takes the row field, which the two top bits do not reach, and the column
byte read under that field returns the presses of the rows whose bit is 0. -/
theorem rowwStoresLowSixBitsActiveLow : Obligations.RowwStoresLowSixBitsActiveLow := by
  intro s d p
  refine ⟨{ s with rowLatch := rowField d }, exec_roww d p s, rowField_getLsbD d, ?ignored, rfl,
    ?readBack⟩
  case ignored =>
    intro d' hlow
    rw [exec_roww, rowField_eq_iff.2 hlow]
  case readBack =>
    intro grp q
    exact ⟨_, columnByte (rowField d) (s.env.buttons grp), exec_btnr grp q _, rfl,
      fun j hj => columnByte_rowField_getLsbD d _ j hj⟩

/-- Settles O27: the byte returned is the column byte of the latch and the group's ports. -/
theorem btnrReturnsColumnsOfActiveRows : Obligations.BtnrReturnsColumnsOfActiveRows := by
  intro s grp p
  exact ⟨_, columnByte s.rowLatch (s.env.buttons grp), exec_btnr grp p s, rfl,
    fun j hj => columnByte_getLsbD _ _ j hj,
    columnByte_float _ _ 6 (by decide) (by decide), columnByte_float _ _ 7 (by decide) (by decide)⟩

end Sys2Proof.Machine
end

/-! PROOF. The byte-to-voltage conversion (40_cv_store.md rule R91): its lowest terms, its
monotonicity and the values the rule lists. -/

namespace Sys2Proof.Machine

theorem voltage_eq_lowestTerms (b : Byte) : voltage b = 2 * (b.toNat : Rat) / 51 := by
  rw [voltage_eq]
  ring

theorem voltage_of_toNat_eq {b : Byte} {n : Nat} (h : b.toNat = n) :
    voltage b = 2 * (n : Rat) / 51 := by
  rw [voltage_eq_lowestTerms, h]

theorem voltage_le_iff {b b' : Byte} : voltage b ≤ voltage b' ↔ b.toNat ≤ b'.toNat := by
  rw [← not_lt, voltage_lt_iff, not_lt]

/-- Settles O1: each listed value is the form in lowest terms at that byte. -/
theorem voltageIsTenTimesByteOver255 : Obligations.VoltageIsTenTimesByteOver255 := by
  refine ⟨fun b => ⟨voltage_eq b, voltage_eq_lowestTerms b⟩, fun _ _ => voltage_le_iff.2,
    voltage_zero, ?leastByte, ?fifth, ?belowHalf, ?aboveHalf, ?fullScale⟩
  case leastByte => rw [voltage_of_toNat_eq (n := 1) rfl]; norm_num
  case fifth => rw [voltage_of_toNat_eq (n := 51) rfl]; norm_num
  case belowHalf => rw [voltage_of_toNat_eq (n := 127) rfl]; norm_num
  case aboveHalf => rw [voltage_of_toNat_eq (n := 128) rfl]; norm_num
  case fullScale => rw [voltage_of_toNat_eq (n := 255) rfl]; norm_num

end Sys2Proof.Machine

/-! PROOF. The LFO's tick (42_lfo.md rule R138): its outcome in any state, and that the timer's
firing is the one delivery that decodes to it. -/

namespace Sys2Proof.Machine

/-! ### What a tick answers -/

/-- The LED takes the old phase, which is the inverse of the new one. -/
theorem exec_lfotick (s : State) :
    exec .lfotick s
      = .next { s with lfoPhase := !s.lfoPhase, trace := s.trace ++ [.led .lfo s.lfoPhase] } := rfl

/-! ### What decodes to a tick -/

theorem decodeMemRead_ne_lfotick (t : Target) (p : Bool) : decodeMemRead t p ≠ .ok .lfotick := by
  cases t <;> simp [decodeMemRead]

theorem decodeMemWrite_ne_lfotick (t : Target) (d : Byte) (p : Bool) :
    decodeMemWrite t d p ≠ .ok .lfotick := by
  cases t <;> simp [decodeMemWrite]

theorem decodeBus_ne_lfotick (cfg : Config) (b : BusTxn) : decodeBus cfg b ≠ .ok .lfotick := by
  cases b with
  | read sp a p =>
    cases sp with
    | io => simp [decodeBus]
    | mem => exact decodeMemRead_ne_lfotick _ p
  | write sp a d p =>
    cases sp with
    | io => simp [decodeBus]
    | mem => exact decodeMemWrite_ne_lfotick _ d p

theorem decodeNotification_ne_lfotick (cfg : Config) (id : SolverId) (v : Amps) :
    decodeNotification cfg id v ≠ .ok .lfotick := by
  unfold decodeNotification
  split_ifs <;> simp

theorem decode_eq_lfotick_iff {cfg : Config} {w : Wire} :
    decode cfg w = .ok .lfotick ↔ w = .timer := by
  cases w with
  | timer => simp [decode]
  | bus b => simpa [decode] using decodeBus_ne_lfotick cfg b
  | notify id v => simpa [decode] using decodeNotification_ne_lfotick cfg id v
  | queued d => cases d <;> simp [decode, Deferred.toInstr]
  | octave | encoder | powerOn => simp [decode]

/-- Settles O19: the tick's one equation gives the changes and the frame, and taken at another
current it gives the same changes. -/
theorem lfotickTogglesPhaseAndLed : Obligations.LfotickTogglesPhaseAndLed := by
  refine ⟨fun s => ⟨_, exec_lfotick s, rfl, ?ledIsInverse, fun x => exec_lfotick _⟩,
    fun _ _ => decode_eq_lfotick_iff.1⟩
  case ledIsInverse => simp only [Bool.not_not]

end Sys2Proof.Machine

/-! PROOF. The rotary encoder (44_panel.md rules R180, R181): the outcome of a movement and of the two
kinds of read in any state, the byte a read returns, and the memory reads that are encoder reads. -/

namespace Sys2Proof.Machine

/-! ### What the two operations answer -/

/-- The direction and the line's level are functions of the movement: nothing of the state before is
read, which is why movements are not counted. -/
theorem exec_encmov (o n : EncPos) (s : State) :
    exec (.encmov o n) s
      = .next { s with encDir := encoderDirection o n, irq := true,
                       trace := s.trace ++ [.setInterruptLine true] } := rfl

theorem exec_encr_read (s : State) :
    exec (.encr false) s
      = .next { s with readData := some (encoderByte s.cfg s.encDir), irq := false,
                       trace := s.trace ++ [.setInterruptLine false] } := rfl

theorem exec_encr_probe (s : State) :
    exec (.encr true) s = .next { s with readData := some (encoderByte s.cfg s.encDir) } := rfl

/-! ### The byte and the decode of an encoder read -/

theorem encoderByte_eq_ite (cfg : Config) (dir : EncDir) :
    encoderByte cfg dir = if dir = .inc then cfg.encReadInc else cfg.encReadDec := by
  cases dir with
  | inc => rw [if_pos rfl, encoderByte]
  | dec => rw [if_neg (by decide), encoderByte]

theorem decodeBus_read_of_encoder {cfg : Config} {a : Addr} (h : cfg.memDecode a .read = .encoder)
    (p : Bool) : decodeBus cfg (.read .mem a p) = .ok (.encr p) := by
  rw [decodeBus, h, decodeMemRead]

/-! ### The obligations -/

/-- Settles O30: the movement's equation at the first state, at the state it leaves, and for the
second movement alone; then the read's equation. -/
theorem everyMovementAssertsOnePendingInterrupt :
    Obligations.EveryMovementAssertsOnePendingInterrupt := by
  intro s o n o' n'
  refine ⟨_, _, _, _, exec_encmov o n s, rfl, rfl, exec_encmov o' n' _, rfl, rfl,
    exec_encmov o' n' s, ?lastDirectionAlone, exec_encr_read _, rfl, ?directionKept⟩
  case lastDirectionAlone => rfl
  case directionKept => rfl

/-- Settles O31: both kinds of read return the byte of the last direction, and the target
`ENCODER` decodes to them. -/
theorem encrReturnsDirectionAndClearsInterrupt :
    Obligations.EncrReturnsDirectionAndClearsInterrupt :=
  ⟨fun s => ⟨encoderByte s.cfg s.encDir, encoderByte_eq_ite s.cfg s.encDir, exec_encr_read s,
      exec_encr_probe s⟩,
    fun _ _ p h => decodeBus_read_of_encoder h p⟩

end Sys2Proof.Machine

/-! PROOF. The block never faults (60_exceptions.md rule R210): every operation answers a next
state, and so, since what does not decode is ignored, does every delivery and every action. -/

namespace Sys2Proof.Machine

/-! ### Every operation answers -/

/-- A CV write completes at an unconnected entry too, which it ignores (60_exceptions.md rule
R211). -/
theorem execCvw_answers (m : BitVec 3) (e : BitVec 5) (d : Byte) (p : Bool) (s : State) :
    ∃ t, execCvw m e d p s = .next t := by
  by_cases he : e.toNat < Config.cvChannels
  · exact ⟨_, execCvw_connected s m d p he⟩
  · exact ⟨_, execCvw_unconnected s m d p (not_lt.1 he)⟩

/-- A current that is not positive is skipped, not reported (60_exceptions.md rule R212). -/
theorem execEgrc_answers (c : Contour) (s : State) : ∃ t, execEgrc c s = .next t := by
  rcases le_or_gt (s.egCurrent.get c) 0 with hcur | hcur
  · exact ⟨_, execEgrc_skip s hcur⟩
  · exact ⟨_, execEgrc_push s hcur⟩

/-- A current that is not positive stops the oscillation, which is no error (60_exceptions.md rule
R212). -/
theorem execLforc_answers (s : State) : ∃ t, execLforc s = .next t := by
  rcases le_or_gt s.lfoCurrent 0 with hcur | hcur
  · exact ⟨_, execLforc_disarm s hcur⟩
  · exact ⟨_, execLforc_arm s hcur⟩

/-- Three operations branch on their operand or on a current; the others are one equation each. -/
theorem exec_answers (i : Instr) (s : State) : ∃ t, exec i s = .next t := by
  cases i with
  | cvw m e d p => exact execCvw_answers m e d p s
  | egrc c => exact execEgrc_answers c s
  | lforc => exact execLforc_answers s
  | roww | btnr | kbdr | encr | edw | pdw | olw | nvr | nvw | egnote | lfonote | lfotick | octchg
  | encmov | reset => exact ⟨_, rfl⟩

/-! ### Every step answers -/

/-- What does not decode is ignored, never refused (30_encoding.md rule R78). -/
theorem receive_answers (w : Wire) (s : State) : ∃ t, receive w s = .next t := by
  unfold receive
  split
  next i _ => exact exec_answers i s
  next r _ => exact ⟨s.ignore r, rfl⟩

theorem deliverPending_answers (p : Pending) (s : State) : ∃ t, deliverPending p s = .next t :=
  receive_answers p.wire (s.takePending p)

/-- A scheduler's directive delivers an item or, where none is due, only moves on. -/
theorem act_answers (a : Input) (s : State) : ∃ t, act a s = .next t := by
  cases a with
  | bus | notify | octave | encoder | powerOn =>
    rw [act]
    exact receive_answers _ _
  | deliver | run | advance =>
    rw [act]
    split
    · exact deliverPending_answers _ _
    · exact ⟨_, rfl⟩
  | elapse | set => exact ⟨_, rfl⟩

theorem step_answers (s : State) : ∃ t, step s = .next t := by
  cases hin : s.inbox with
  | nil => exact ⟨s, by rw [step, stepOnce, hin]⟩
  | cons a rest =>
    rw [step_of_inbox hin]
    exact act_answers a s.startStep

/-- Settles O41: each operation answers from every state, and so does each step. -/
theorem everyOperationCompletes : Obligations.EveryOperationCompletes :=
  ⟨exec_answers, step_answers⟩

end Sys2Proof.Machine

/-! PROOF. Decoding and encoding (30_encoding.md sections 1 to 3, 45_dispatcher.md rule R190): the
two are inverse to each other on operations, frames and bytes, and what is decoded is well
formed. -/

namespace Sys2Proof

variable {cfg : Config} {i : Instr}

/-! ### Which operations a delivery selects -/

/-- A memory read selects an operation of its own target. -/
theorem decodeMemRead_memTarget {t : Target} {p : Bool} (h : decodeMemRead t p = .ok i) :
    i.memTarget = some (.read, t) ∧ t ≠ .unmapped := by
  cases t <;> cases h <;> exact ⟨rfl, by simp⟩

/-- A memory write selects an operation of its own target. -/
theorem decodeMemWrite_memTarget {t : Target} {d : Byte} {p : Bool}
    (h : decodeMemWrite t d p = .ok i) : i.memTarget = some (.write, t) ∧ t ≠ .unmapped := by
  cases t <;> cases h <;> exact ⟨rfl, by simp⟩

/-- A transaction selects a CV write, or the operation of the target its address is mapped to. -/
theorem decodeBus_cases {b : BusTxn} (h : decodeBus cfg b = .ok i) :
    (∃ m e d p, i = .cvw m e d p)
      ∨ ∃ dir a, i.memTarget = some (dir, cfg.memDecode a dir)
        ∧ cfg.memDecode a dir ≠ .unmapped := by
  cases b with
  | read sp a p =>
    cases sp with
    | io => cases h
    | mem => exact .inr ⟨.read, a, decodeMemRead_memTarget h⟩
  | write sp a d p =>
    cases sp with
    | io =>
      cases h
      exact .inl ⟨_, _, d, p, rfl⟩
    | mem => exact .inr ⟨.write, a, decodeMemWrite_memTarget h⟩

/-- A notification selects one of the two operations that store a current. -/
theorem decodeNotification_cases {id : SolverId} {v : Amps}
    (h : decodeNotification cfg id v = .ok i) : (∃ c, i = .egnote c v) ∨ i = .lfonote v := by
  unfold decodeNotification at h
  split_ifs at h <;> cases h
  · exact .inl ⟨.filter, rfl⟩
  · exact .inl ⟨.loudness, rfl⟩
  · exact .inr rfl

/-- A selected target has an address, so that what a transaction selects is well formed. -/
theorem decodeBus_wellFormed {b : BusTxn} (h : decodeBus cfg b = .ok i) :
    i.wellFormed cfg = true := by
  obtain ⟨m, e, d, p, rfl⟩ | ⟨dir, a, htarget, hmapped⟩ := decodeBus_cases h
  · rfl
  · rw [Instr.wellFormed, htarget]
    exact Config.reaches_of_memDecode hmapped

theorem decode_wellFormed {w : Wire} (h : decode cfg w = .ok i) : i.wellFormed cfg = true := by
  cases w with
  | bus b => exact decodeBus_wellFormed h
  | notify id v => obtain ⟨c, rfl⟩ | rfl := decodeNotification_cases h <;> rfl
  | queued d => cases d <;> cases h <;> rfl
  | octave | encoder | timer | powerOn =>
    cases h
    rfl

/-! ### The wire form of an operation decodes to it -/

/-- The I/O address `32 * mirror + entry` of a CV write, bit by bit. -/
theorem ioFields_getLsbD (m : BitVec 3) (e : BitVec 5) (k : Nat) :
    (0#8 ++ (m ++ e) : Addr).getLsbD k = if k < 5 then e.getLsbD k else m.getLsbD (k - 5) := by
  refine BitVec.getLsbD_append.trans ?_
  rw [BitVec.getLsbD_append]
  split_ifs with h1 h2
  · rfl
  · rfl
  · omega
  · rw [BitVec.getLsbD_zero, BitVec.getLsbD_of_ge m _ (by omega)]

theorem ioEntry_of_fields (m : BitVec 3) (e : BitVec 5) :
    ioEntry (ioAddress (0#8 ++ (m ++ e))) = e := by
  apply BitVec.eq_of_getLsbD_eq
  intro k hk
  rw [ioEntry, ioAddress, BitVec.getLsbD_extractLsb', BitVec.getLsbD_extractLsb', ioFields_getLsbD]
  simp [hk, show k < 8 by omega]

theorem ioMirror_of_fields (m : BitVec 3) (e : BitVec 5) :
    ioMirror (ioAddress (0#8 ++ (m ++ e))) = m := by
  apply BitVec.eq_of_getLsbD_eq
  intro k hk
  rw [ioMirror, ioAddress, BitVec.getLsbD_extractLsb', BitVec.getLsbD_extractLsb', ioFields_getLsbD]
  simp [hk, show 5 + k < 8 by omega]

theorem decodeBus_read_mapped {a : Addr} {t : Target} (h : cfg.memDecode a .read = t) (p : Bool) :
    decodeBus cfg (.read .mem a p) = decodeMemRead t p := by
  rw [decodeBus, h]

theorem decodeBus_write_mapped {a : Addr} {t : Target} (h : cfg.memDecode a .write = t) (d : Byte)
    (p : Bool) : decodeBus cfg (.write .mem a d p) = decodeMemWrite t d p := by
  rw [decodeBus, h]

theorem encodeMemRead_isBus {t : Target} {p : Bool} {w : Wire}
    (h : encodeMemRead cfg t p = some w) : ∃ b, w = .bus b := by
  obtain ⟨a, -, rfl⟩ := Option.map_eq_some_iff.1 h
  exact ⟨_, rfl⟩

theorem encodeMemWrite_isBus {t : Target} {d : Byte} {p : Bool} {w : Wire}
    (h : encodeMemWrite cfg t d p = some w) : ∃ b, w = .bus b := by
  obtain ⟨a, -, rfl⟩ := Option.map_eq_some_iff.1 h
  exact ⟨_, rfl⟩

theorem decodeBus_of_encodeMemRead {t : Target} {p : Bool} {b : BusTxn}
    (h : encodeMemRead cfg t p = some (.bus b)) : decodeBus cfg b = decodeMemRead t p := by
  obtain ⟨a, ha, hb⟩ := Option.map_eq_some_iff.1 h
  cases hb
  exact decodeBus_read_mapped (Config.memDecode_of_addrOf ha) p

theorem decodeBus_of_encodeMemWrite {t : Target} {d : Byte} {p : Bool} {b : BusTxn}
    (h : encodeMemWrite cfg t d p = some (.bus b)) : decodeBus cfg b = decodeMemWrite t d p := by
  obtain ⟨a, ha, hb⟩ := Option.map_eq_some_iff.1 h
  cases hb
  exact decodeBus_write_mapped (Config.memDecode_of_addrOf ha) d p

/-- On every map, whether or not it meets the constraints, the transaction the encoder chooses
selects the operation. -/
theorem decodeBus_of_encode {b : BusTxn} (h : encode cfg i = some (.bus b)) :
    decodeBus cfg b = .ok i := by
  cases i with
  | cvw m e d p =>
    cases h
    rw [decodeBus, ioEntry_of_fields, ioMirror_of_fields]
  | btnr | kbdr | encr | nvr => exact decodeBus_of_encodeMemRead h
  | roww | edw | pdw | olw | nvw => exact decodeBus_of_encodeMemWrite h
  | egnote | egrc | lfonote | lforc | lfotick | octchg | encmov | reset => cases h

theorem decodeNotification_contour (hwf : cfg.wf = true) (c : Contour) (v : Amps) :
    decodeNotification cfg (cfg.solverOutRate.get c) v = .ok (.egnote c v) := by
  have hdistinct := Config.wf_notifications hwf
  simp only [List.nodup_cons, List.mem_cons, List.not_mem_nil, or_false, not_or] at hdistinct
  cases c with
  | filter => simp [decodeNotification, PerContour.get]
  | loudness => simp [decodeNotification, PerContour.get, Ne.symm hdistinct.1.1]

theorem decodeNotification_lfo (hwf : cfg.wf = true) (v : Amps) :
    decodeNotification cfg cfg.solverOutLfoRate v = .ok (.lfonote v) := by
  have hdistinct := Config.wf_notifications hwf
  simp only [List.nodup_cons, List.mem_cons, List.not_mem_nil, or_false, not_or] at hdistinct
  simp [decodeNotification, Ne.symm hdistinct.1.2, Ne.symm hdistinct.2.1]

theorem decode_of_encode (hwf : cfg.wf = true) {w : Wire} (h : encode cfg i = some w) :
    decode cfg w = .ok i := by
  cases i with
  | egnote c v =>
    cases h
    exact decodeNotification_contour hwf c v
  | lfonote v =>
    cases h
    exact decodeNotification_lfo hwf v
  | egrc | lforc | lfotick | octchg | encmov | reset =>
    cases h
    rfl
  | cvw m e d p =>
    cases h
    exact decodeBus_of_encode (cfg := cfg) (i := .cvw m e d p) rfl
  | btnr | kbdr | encr | nvr =>
    obtain ⟨b, rfl⟩ := encodeMemRead_isBus h
    exact decodeBus_of_encode h
  | roww | edw | pdw | olw | nvw =>
    obtain ⟨b, rfl⟩ := encodeMemWrite_isBus h
    exact decodeBus_of_encode h

/-- An operation has a wire form just when it is well formed. -/
theorem encode_isSome (cfg : Config) (i : Instr) : (encode cfg i).isSome = i.wellFormed cfg := by
  cases i with
  | cvw | egnote | egrc | lfonote | lforc | lfotick | octchg | encmov | reset => rfl
  | btnr | kbdr | encr | nvr => exact Laws.EncodeDomain.read_domain cfg _ _
  | roww | edw | pdw | olw | nvw => exact Laws.EncodeDomain.write_domain cfg _ _ _

/-- Settles O53: a well-formed operation has a wire form, and every wire form decodes back. -/
theorem decodeOfEncodeIsTheOperation : Obligations.DecodeOfEncodeIsTheOperation := by
  intro cfg i hwf hi
  rw [← encode_isSome, Option.isSome_iff_exists] at hi
  obtain ⟨w, hw⟩ := hi
  exact ⟨w, hw, decode_of_encode hwf hw⟩

/-! ### Frames -/

/-- The frame with given fields. -/
def frameWord (dir space probe : Bool) (data : Byte) (addr : Addr) : BitVec 32 :=
  0#5 ++ BitVec.ofBool dir ++ BitVec.ofBool space ++ BitVec.ofBool probe ++ data ++ addr

theorem encodeFrame_read (sp : Space) (a : Addr) (p : Bool) :
    encodeFrame (.read sp a p) = frameWord true (sp == .mem) p 0#8 a := rfl

theorem encodeFrame_write (sp : Space) (a : Addr) (d : Byte) (p : Bool) :
    encodeFrame (.write sp a d p) = frameWord false (sp == .mem) p d a := rfl

section
variable (dir space probe : Bool) (data : Byte) (addr : Addr)

theorem frameWord_addr : (frameWord dir space probe data addr).extractLsb' 0 16 = addr := by
  apply BitVec.eq_of_getLsbD_eq
  intro k hk
  rw [BitVec.getLsbD_extractLsb', frameWord, frame_getLsbD]
  simp [hk]

theorem frameWord_data : (frameWord dir space probe data addr).extractLsb' 16 8 = data := by
  apply BitVec.eq_of_getLsbD_eq
  intro k hk
  rw [BitVec.getLsbD_extractLsb', frameWord, frame_getLsbD]
  simp [hk, show 16 + k < 24 by omega]

theorem frameWord_reserved :
    (frameWord dir space probe data addr).extractLsb' 27 5 = 0#5 := by
  apply BitVec.eq_of_getLsbD_eq
  intro k hk
  rw [BitVec.getLsbD_extractLsb', frameWord, frame_getLsbD]
  simp [show ¬ 27 + k < 16 by omega, show ¬ 27 + k < 24 by omega, show 27 + k ≠ 24 by omega,
    show 27 + k ≠ 25 by omega, show 27 + k ≠ 26 by omega]

theorem frameWord_flags :
    (frameWord dir space probe data addr).getLsbD 24 = probe
      ∧ (frameWord dir space probe data addr).getLsbD 25 = space
      ∧ (frameWord dir space probe data addr).getLsbD 26 = dir :=
  ⟨frame_getLsbD .., frame_getLsbD .., frame_getLsbD ..⟩

end

/-- A word whose reserved bits are clear is the frame of its own fields. -/
theorem frameWord_of_fields {w : BitVec 32} (hreserved : w.extractLsb' 27 5 = 0#5) :
    frameWord (w.getLsbD 26) (w.getLsbD 25) (w.getLsbD 24) (w.extractLsb' 16 8)
      (w.extractLsb' 0 16) = w := by
  apply BitVec.eq_of_getLsbD_eq
  intro k hk
  rw [frameWord, frame_getLsbD, BitVec.getLsbD_extractLsb', BitVec.getLsbD_extractLsb']
  split_ifs with haddr hdata hprobe hspace hdir
  · simp [haddr]
  · simp [show k - 16 < 8 by omega, show 16 + (k - 16) = k by omega]
  · rw [hprobe]
  · rw [hspace]
  · rw [hdir]
  · have hbit := congrArg (·.getLsbD (k - 27)) hreserved
    simpa [show k - 27 < 5 by omega, show 27 + (k - 27) = k by omega] using hbit.symm

theorem decodeFrame_encodeFrame (b : BusTxn) : decodeFrame (encodeFrame b) = .ok b := by
  cases b with
  | read sp a p =>
    obtain ⟨hprobe, hspace, hdir⟩ := frameWord_flags true (sp == .mem) p 0#8 a
    rw [encodeFrame_read, decodeFrame, frameWord_addr, frameWord_data, frameWord_reserved, hprobe,
      hspace, hdir]
    cases sp <;> rfl
  | write sp a d p =>
    obtain ⟨hprobe, hspace, hdir⟩ := frameWord_flags false (sp == .mem) p d a
    rw [encodeFrame_write, decodeFrame, frameWord_addr, frameWord_data, frameWord_reserved, hprobe,
      hspace, hdir]
    cases sp <;> rfl

/-- The space of a frame's bit 25 has that bit. -/
theorem spaceBit_of_bit (x : Bool) : ((if x then Space.mem else Space.io) == Space.mem) = x := by
  cases x <;> rfl

theorem encodeFrame_of_decodeFrame {w : BitVec 32} {b : BusTxn} (h : decodeFrame w = .ok b) :
    encodeFrame b = w := by
  have hreserved : w.extractLsb' 27 5 = 0#5 := by
    by_contra hne
    simp [decodeFrame, hne] at h
  have hw := frameWord_of_fields hreserved
  cases hdir : w.getLsbD 26 with
  | true =>
    have hdata : w.extractLsb' 16 8 = 0#8 := by
      by_contra hne
      simp [decodeFrame, hreserved, hdir, hne] at h
    simp only [decodeFrame, hreserved, hdir, hdata, ne_eq, not_true_eq_false, if_false, if_true,
      Except.ok.injEq] at h
    rw [← h, encodeFrame_read, spaceBit_of_bit, ← hdir, ← hdata, hw]
  | false =>
    simp only [decodeFrame, hreserved, hdir, ne_eq, not_true_eq_false, if_false, Bool.false_eq_true,
      Except.ok.injEq] at h
    rw [← h, encodeFrame_write, spaceBit_of_bit, ← hdir, hw]

/-- A frame has one transaction and a transaction one frame. -/
theorem decodeFrame_eq_ok_iff {w : BitVec 32} {b : BusTxn} :
    decodeFrame w = .ok b ↔ encodeFrame b = w :=
  ⟨encodeFrame_of_decodeFrame, fun h => h ▸ decodeFrame_encodeFrame b⟩

/-- Settles O55: frames and transactions correspond one to one, and every selected operation has its
address. -/
theorem decodingIsUnambiguousAndWellFormed : Obligations.DecodingIsUnambiguousAndWellFormed :=
  ⟨fun _ _ => decodeFrame_eq_ok_iff, fun _ _ _ => decode_wellFormed⟩

/-! ### Bytes -/

/-- The bytes of a frame are read back as its transaction, whatever follows them. -/
theorem decodeBytes_bytesOfWord32 (b : BusTxn) (rest : List Byte) (h : decodeBus cfg b = .ok i) :
    decodeBytes cfg (bytesOfWord32 (encodeFrame b) ++ rest) = .ok (i, rest) := by
  simp only [bytesOfWord32, List.cons_append, List.nil_append, decodeBytes, word32_bytesOfWord32,
    decodeFrame_encodeFrame, h]

/-- Only an operation whose wire form is a transaction has bytes, and they are its frame's. -/
theorem encodeBytes_eq_some {bytes : List Byte} (h : encodeBytes cfg i = some bytes) :
    ∃ b, encode cfg i = some (.bus b) ∧ bytes = bytesOfWord32 (encodeFrame b) := by
  unfold encodeBytes at h
  split at h
  next b hb =>
    cases h
    exact ⟨b, hb, rfl⟩
  next => cases h

/-- Settles O54: the bytes are those of a frame, whose transaction selects the operation. -/
theorem decodeOfEncodedBytesIsTheOperation : Obligations.DecodeOfEncodedBytesIsTheOperation := by
  intro cfg i bytes rest h
  obtain ⟨b, hb, rfl⟩ := encodeBytes_eq_some h
  exact ⟨rfl, decodeBytes_bytesOfWord32 b rest (decodeBus_of_encode hb)⟩

/-! ### The routing of accesses, and words written out -/

/-- Settles O51: the target of the address alone selects the operation. -/
theorem memoryAccessesReachTheirHandlers : Obligations.MemoryAccessesReachTheirHandlers :=
  fun _ _ d p => ⟨fun _ h => decodeBus_read_mapped h p, fun h => decodeBus_read_mapped h p,
    fun h => decodeBus_read_mapped h p, fun _ h => decodeBus_read_mapped h p,
    fun _ h => decodeBus_write_mapped h d p, fun h => decodeBus_write_mapped h d p,
    fun h => decodeBus_write_mapped h d p, fun h => decodeBus_write_mapped h d p,
    fun _ h => decodeBus_write_mapped h d p⟩

/-- Settles O52: each word is a literal, on which the decoder is evaluated. -/
theorem writtenOutWordsDecode : Obligations.WrittenOutWordsDecode :=
  ⟨rfl, rfl, rfl, rfl, rfl, rfl, rfl, rfl, rfl⟩

end Sys2Proof

/-! PROOF. What each operation changes and what it calls, said once for the operations that branch
(CVW, EGRC, LFORC, ENCR), and from it the whole-machine rules of 10_state.md: every register has its
own writers, every outbound call its own callers, and the outside has none. -/

namespace Sys2Proof.Machine

variable {s t : State} {i : Instr}

/-! ### The CV write, with its calls -/

/-- The calls a changed write makes, by its channel's class (40_cv_store.md rule R96). -/
def forwardCalls (cfg : Config) (ch : Fin Config.cvChannels) (v : Volts) : List OutCall :=
  match chanClass cfg ch with
  | .egRate c => [.setAnalogInput (cfg.solverInRate.get c) v]
  | .lfoRate => [.setAnalogInput cfg.solverInLfoRate v]
  | .egLevel _ => []
  | .plain => []

theorem mem_forwardCalls {cfg : Config} {ch : Fin Config.cvChannels} {v : Volts} {c : OutCall}
    (h : c ∈ forwardCalls cfg ch v) : ∃ id, c = .setAnalogInput id v := by
  unfold forwardCalls at h
  split at h <;> simp only [List.mem_singleton, List.not_mem_nil] at h
  · exact ⟨_, h⟩
  · exact ⟨_, h⟩

/-- The dispatch reads no call made before it, and adds the forward's to them. -/
theorem State.dispatchCv_withTrace (s : State) (ch : Fin Config.cvChannels) (v : Volts)
    (calls : List OutCall) :
    ({ s with trace := calls }).dispatchCv ch v
      = { s.dispatchCv ch v with trace := calls ++ forwardCalls s.cfg ch v } := by
  cases hclass : chanClass s.cfg ch with
  | egRate | lfoRate => simp only [State.dispatchCv, forwardCalls, hclass, State.emit]
  | egLevel | plain =>
    simp only [State.dispatchCv, forwardCalls, hclass, List.append_nil, State.scheduleNow]

/-- The calls a write of a byte makes after its debit: none where the write is redundant. -/
def State.writeCalls (s : State) (ch : Fin Config.cvChannels) (d : Byte) : List OutCall :=
  if voltage d = s.cvVolt[ch] then [] else forwardCalls s.cfg ch (voltage d)

theorem State.mem_writeCalls {ch : Fin Config.cvChannels} {d : Byte} {c : OutCall}
    (h : c ∈ s.writeCalls ch d) : ∃ id v, c = .setAnalogInput id v := by
  unfold State.writeCalls at h
  split at h
  · cases h
  · obtain ⟨id, rfl⟩ := mem_forwardCalls h
    exact ⟨id, _, rfl⟩

theorem State.writeCalls_changed {ch : Fin Config.cvChannels} {d : Byte}
    (h : voltage d ≠ s.cvVolt[ch]) : s.writeCalls ch d = forwardCalls s.cfg ch (voltage d) :=
  if_neg h

theorem State.writeCv_withTrace (s : State) (ch : Fin Config.cvChannels) (d : Byte)
    (calls : List OutCall) :
    ({ s with trace := calls }).writeCv ch d
      = { s.writeCv ch d with trace := calls ++ s.writeCalls ch d } := by
  by_cases hsame : voltage d = s.cvVolt[ch]
  · rw [State.writeCv_redundant s hsame, State.writeCv_redundant { s with trace := calls } hsame,
      State.writeCalls, if_pos hsame, List.append_nil]
  · rw [State.writeCv_changed s hsame, State.writeCv_changed { s with trace := calls } hsame,
      State.writeCalls_changed hsame]
    exact State.dispatchCv_withTrace (s.storeCv ch d) ch (voltage d) calls

/-- `CVW` to a connected entry: the write of the store, the debit, then the write's calls. -/
theorem exec_cvw_connected (s : State) (m : BitVec 3) {e : BitVec 5} (d : Byte) (p : Bool)
    (he : e.toNat < Config.cvChannels) :
    exec (.cvw m e d p) s = .next { s.writeCv ⟨e.toNat, he⟩ d with
      trace := s.trace ++ debitCalls p ++ s.writeCalls ⟨e.toNat, he⟩ d } := by
  refine (execCvw_connected s m d p he).trans ?_
  rw [State.debitWaitStates_eq, State.writeCv_withTrace]
  rfl

/-- `CVW` to an unconnected entry: the debit alone. -/
theorem exec_cvw_unconnected (s : State) (m : BitVec 3) {e : BitVec 5} (d : Byte) (p : Bool)
    (he : Config.cvChannels ≤ e.toNat) :
    exec (.cvw m e d p) s = .next { s with trace := s.trace ++ debitCalls p } :=
  (execCvw_unconnected s m d p he).trans (congrArg _ (State.debitWaitStates_eq s p))

/-! ### The operations that branch -/

theorem exec_cvw_cases {m : BitVec 3} {e : BitVec 5} {d : Byte} {p : Bool}
    (h : exec (.cvw m e d p) s = .next t) :
    ∃ raw volt queue stamp calls, t = { s with
        cvRaw := raw, cvVolt := volt, queue := queue, stamp := stamp
        trace := s.trace ++ debitCalls p ++ calls }
      ∧ ∀ c ∈ calls, ∃ id v, c = .setAnalogInput id v := by
  by_cases he : e.toNat < Config.cvChannels
  · rw [exec_cvw_connected s m d p he, State.writeCv_frame] at h
    cases h
    exact ⟨_, _, _, _, _, rfl, fun _ => State.mem_writeCalls⟩
  · rw [exec_cvw_unconnected s m d p (not_lt.1 he)] at h
    cases h
    exact ⟨s.cvRaw, s.cvVolt, s.queue, s.stamp, [], by rw [List.append_nil], by simp⟩

theorem exec_egrc_cases {c : Contour} (h : exec (.egrc c) s = .next t) :
    t = { s with trace := s.trace ++ [.log] }
      ∨ ∃ r v, t = { s with
          egR := s.egR.set c (some r), egTarget := s.egTarget.set c (some v)
          trace := s.trace ++ [.setResistance (s.cfg.solverRc.get c) r,
            .setTargetVoltage (s.cfg.solverRc.get c) v] } := by
  rcases le_or_gt (s.egCurrent.get c) 0 with hcur | hcur
  · cases (execEgrc_skip s hcur).symm.trans h
    exact .inl rfl
  · cases (execEgrc_push s hcur).symm.trans h
    exact .inr ⟨_, _, rfl⟩

theorem exec_lforc_cases (h : exec .lforc s = .next t) :
    t = { s with lfoTimer := .disarmed }
      ∨ ∃ half first, t = { s with
          lfoHalf := some half, lfoTimer := .armed first half s.stamp, stamp := s.stamp + 1 } := by
  rcases le_or_gt s.lfoCurrent 0 with hcur | hcur
  · cases (execLforc_disarm s hcur).symm.trans h
    exact .inl rfl
  · cases (execLforc_arm s hcur).symm.trans h
    exact .inr ⟨_, _, rfl⟩

theorem exec_encr_cases {p : Bool} (h : exec (.encr p) s = .next t) :
    (p = true ∧ t = { s with readData := some (encoderByte s.cfg s.encDir) })
      ∨ (p = false ∧ t = { s with
          readData := some (encoderByte s.cfg s.encDir), irq := false
          trace := s.trace ++ [.setInterruptLine false] }) := by
  cases p <;> cases h
  · exact .inr ⟨rfl, rfl⟩
  · exact .inl ⟨rfl, rfl⟩

/-! ### Registers and the outside -/

/-- Settles O37: the operations that branch by their cases, each of the others by its equation. -/
theorem registersAreWrittenOnlyByTheirOperations :
    Obligations.RegistersAreWrittenOnlyByTheirOperations := by
  intro i s t h hreset
  cases i with
  | reset => exact absurd rfl hreset
  | cvw m e d p =>
    obtain ⟨raw, volt, queue, stamp, calls, rfl, -⟩ := exec_cvw_cases h
    exact ⟨fun hne => absurd rfl (hne m e d p), by simp⟩
  | egrc c => obtain rfl | ⟨r, v, rfl⟩ := exec_egrc_cases h <;> simp
  | lforc => obtain rfl | ⟨half, first, rfl⟩ := exec_lforc_cases h <;> simp
  | encr p => obtain ⟨rfl, rfl⟩ | ⟨rfl, rfl⟩ := exec_encr_cases h <;> simp
  | roww | btnr | kbdr | edw | pdw | olw | nvr | nvw | egnote | lfonote | lfotick | octchg
  | encmov =>
    cases h
    simp

/-- Settles O39: no case of an operation names an outside field, and NVW alone names the memory. -/
theorem operationsLeaveTheOutsideAlone : Obligations.OperationsLeaveTheOutsideAlone := by
  intro i s t h
  cases i with
  | cvw m e d p =>
    obtain ⟨raw, volt, queue, stamp, calls, rfl, -⟩ := exec_cvw_cases h
    exact ⟨⟨rfl, rfl, rfl, rfl⟩, fun _ => rfl⟩
  | egrc c =>
    obtain rfl | ⟨r, v, rfl⟩ := exec_egrc_cases h <;>
      exact ⟨⟨rfl, rfl, rfl, rfl⟩, fun _ => rfl⟩
  | lforc =>
    obtain rfl | ⟨half, first, rfl⟩ := exec_lforc_cases h <;>
      exact ⟨⟨rfl, rfl, rfl, rfl⟩, fun _ => rfl⟩
  | encr p =>
    obtain ⟨rfl, rfl⟩ | ⟨rfl, rfl⟩ := exec_encr_cases h <;>
      exact ⟨⟨rfl, rfl, rfl, rfl⟩, fun _ => rfl⟩
  | nvw off d p =>
    cases h
    exact ⟨⟨rfl, rfl, rfl, rfl⟩, fun hne => absurd rfl (hne off d p)⟩
  | roww | btnr | kbdr | edw | pdw | olw | nvr | egnote | lfonote | lfotick | octchg | encmov
  | reset =>
    cases h
    exact ⟨⟨rfl, rfl, rfl, rfl⟩, fun _ => rfl⟩

/-! ### Outbound calls -/

theorem mem_debitCalls {p : Bool} {c : OutCall} :
    c ∈ debitCalls p ↔ p = false ∧ c = .adjustCycleBudget (-32) := by
  cases p <;> simp [debitCalls]

theorem mem_displayCalls {cfg : Config} {disp : Display} {d : Byte} {c : OutCall}
    (h : c ∈ displayCalls cfg disp d) : ∃ digit mask, c = .segments disp digit mask := by
  simp only [displayCalls, List.mem_cons, List.not_mem_nil, or_false] at h
  obtain rfl | rfl := h <;> exact ⟨_, _, rfl⟩

theorem outBitCall_eq_some {b : Bool} {bit : OutBit} {c : OutCall}
    (h : outBitCall b bit = some c) : (∃ n x, c = .led n x) ∨ ∃ n x, c = .flag n x := by
  cases bit <;> cases h
  · exact .inl ⟨_, _, rfl⟩
  · exact .inr ⟨_, _, rfl⟩

theorem mem_latchCallsAt {cfg : Config} {k : Nat} {d : Byte} {c : OutCall}
    (h : c ∈ latchCallsAt cfg k d) : (∃ n x, c = .led n x) ∨ ∃ n x, c = .flag n x := by
  unfold latchCallsAt at h
  split at h
  · obtain ⟨j, -, hj⟩ := List.mem_filterMap.1 h
    exact outBitCall_eq_some hj
  · cases h

/-- Settles O38: the calls each operation adds, and of what kind they are. -/
theorem outboundCallsComeOnlyFromTheirOperations :
    Obligations.OutboundCallsComeOnlyFromTheirOperations := by
  intro i s t h hreset
  cases i with
  | reset => exact absurd rfl hreset
  | cvw m e d p =>
    obtain ⟨raw, volt, queue, stamp, calls, rfl, hcalls⟩ := exec_cvw_cases h
    refine ⟨debitCalls p ++ calls, List.append_assoc .., fun c hc => ?_⟩
    rcases List.mem_append.1 hc with hc | hc
    · obtain ⟨rfl, rfl⟩ := mem_debitCalls.1 hc
      exact ⟨rfl, m, e, d, rfl⟩
    · obtain ⟨id, v, rfl⟩ := hcalls c hc
      exact ⟨m, e, d, p, rfl⟩
  | egrc x =>
    obtain rfl | ⟨r, v, rfl⟩ := exec_egrc_cases h
    · exact ⟨_, rfl, by simp⟩
    · exact ⟨_, rfl, by simp⟩
  | lforc => obtain rfl | ⟨half, first, rfl⟩ := exec_lforc_cases h <;> exact ⟨[], by simp⟩
  | encr p =>
    obtain ⟨rfl, rfl⟩ | ⟨rfl, rfl⟩ := exec_encr_cases h
    · exact ⟨[], by simp⟩
    · exact ⟨_, rfl, by simp⟩
  | edw d p =>
    cases h
    refine ⟨_, rfl, fun c hc => ?_⟩
    obtain ⟨digit, mask, rfl⟩ := mem_displayCalls hc
    exact ⟨d, p, rfl⟩
  | pdw d p =>
    cases h
    refine ⟨_, rfl, fun c hc => ?_⟩
    obtain ⟨digit, mask, rfl⟩ := mem_displayCalls hc
    exact ⟨d, p, rfl⟩
  | olw k d p =>
    cases h
    refine ⟨_, rfl, fun c hc => ?_⟩
    obtain ⟨n, x, rfl⟩ | ⟨n, x, rfl⟩ := mem_latchCallsAt hc
    · exact .inr (.inr ⟨k, d, p, rfl⟩)
    · exact ⟨k, d, p, rfl⟩
  | octchg raw =>
    cases h
    exact ⟨_, rfl, by simp [octaveCalls]⟩
  | nvr | nvw | lfotick | encmov =>
    cases h
    exact ⟨_, rfl, by simp⟩
  | roww | btnr | kbdr | egnote | lfonote =>
    cases h
    exact ⟨[], by simp⟩

/-! ### Probe accesses -/

/-- A probe write is the normal one without the debit, at a connected entry and at an unconnected
one. -/
theorem exec_cvw_probe (s : State) (m : BitVec 3) (e : BitVec 5) (d : Byte) :
    ∃ (t : State) (calls : List OutCall), t.trace = s.trace ++ calls
      ∧ exec (.cvw m e d true) s = .next t
      ∧ exec (.cvw m e d false) s
        = .next { t with trace := s.trace ++ .adjustCycleBudget (-32) :: calls } := by
  by_cases he : e.toNat < Config.cvChannels
  · refine ⟨_, s.writeCalls ⟨e.toNat, he⟩ d, ?_, exec_cvw_connected s m d true he, ?_⟩
    · simp [debitCalls]
    · rw [exec_cvw_connected s m d false he]
      simp [debitCalls]
  · refine ⟨_, [], ?_, exec_cvw_unconnected s m d true (not_lt.1 he),
      exec_cvw_unconnected s m d false (not_lt.1 he)⟩
    simp [debitCalls]

/-- Settles O40: the CV write and the encoder read differ by a call, the two window accesses by
their flag, and no other operation reads its probe bit. -/
theorem probeSuppressesOnlyDebitAndInterruptClear :
    Obligations.ProbeSuppressesOnlyDebitAndInterruptClear :=
  fun s => ⟨exec_cvw_probe s, ⟨_, exec_encr_probe s, rfl, rfl, exec_encr_read s⟩,
    fun off => ⟨s.respond (s.nvram.read off), rfl, rfl⟩,
    fun off d => ⟨{ s with nvram := s.nvram.write off d }, rfl, rfl⟩,
    fun _ => ⟨rfl, rfl, rfl⟩, fun _ _ => rfl, fun _ => rfl, rfl⟩

/-! ### The interrupt line -/

theorem lineLevel_append_line (calls : List OutCall) (b : Bool) :
    lineLevel (calls ++ [.setInterruptLine b]) = b := by simp [lineLevel]

/-- Calls of other kinds leave the line where it was. -/
theorem lineLevel_append_others {calls others : List OutCall}
    (h : ∀ b, .setInterruptLine b ∉ others) : lineLevel (calls ++ others) = lineLevel calls := by
  induction others using List.reverseRecOn with
  | nil => rw [List.append_nil]
  | append_singleton others c ih =>
    have hlast : lineLevel (calls ++ (others ++ [c])) = lineLevel (calls ++ others) := by
      cases c with
      | setInterruptLine b => exact absurd (by simp) (h b)
      | _ => simp [lineLevel]
    rw [hlast, ih fun b hb => h b (by simp [hb])]

/-- Every operation keeps the line's level and the irq bit together. -/
theorem exec_keeps_line (hs : lineLevel s.trace = s.irq) (h : exec i s = .next t) :
    lineLevel t.trace = t.irq := by
  by_cases hmov : ∃ o n, i = .encmov o n
  · obtain ⟨o, n, rfl⟩ := hmov
    cases h
    exact lineLevel_append_line _ true
  by_cases hread : i = .encr false
  · subst hread
    cases h
    exact lineLevel_append_line _ false
  by_cases hreset : i = .reset
  · subst hreset
    cases h
    rfl
  obtain ⟨calls, htrace, hcalls⟩ := outboundCallsComeOnlyFromTheirOperations i s t h hreset
  obtain ⟨-, -, -, -, hirq, -⟩ := registersAreWrittenOnlyByTheirOperations i s t h hreset
  rw [htrace, hirq (fun o n he => hmov ⟨o, n, he⟩) hread, lineLevel_append_others, hs]
  intro b hb
  cases b with
  | true => exact hmov (hcalls _ hb)
  | false => exact hread (hcalls _ hb)

end Sys2Proof.Machine

/-! PROOF. The machine's invariant: it holds at power-on, every operation keeps it, so does taking a
pending item and moving time no further than it, and so every step does. -/

namespace Sys2Proof.Machine

variable {s t : State} {i : Instr}

/-! ### What the invariant speaks of -/

/-- The part of the state the invariant is about; of the output latches it is their number. -/
def State.ruled (s : State) :=
  (s.cfg, s.cvRaw, s.cvVolt, s.egR, s.egTarget, s.lfoHalf, s.lfoTimer, s.queue, s.stamp, s.now,
    s.outLatch.length, s.nvram)

theorem timerSound_iff : TimerSound s ↔ ∀ next period stamp, s.lfoTimer = .armed next period stamp →
    s.now ≤ next ∧ next ≤ s.now + period ∧ 0 < period ∧ s.lfoHalf = some period
      ∧ stamp < s.stamp := by
  unfold TimerSound
  split
  next hoff => simp [hoff]
  next next period stamp hon =>
    constructor
    · intro h next' period' stamp' heq
      cases hon.symm.trans heq
      exact h
    · exact fun h => h next period stamp hon

theorem Inv.of_ruled_eq (hs : Inv s) (h : t.ruled = s.ruled) : Inv t := by
  simp only [State.ruled, Prod.mk.injEq] at h
  obtain ⟨hcfg, hraw, hvolt, hr, htarget, hhalf, htimer, hqueue, hstamp, hnow, hlatches, hnvram⟩ :=
    h
  exact {
    config := hcfg ▸ hs.config
    cvStore := hs.cvStore.of_same_store hraw hvolt
    push := by simpa only [PushSound, hr, htarget] using hs.push
    halfPositive := hhalf ▸ hs.halfPositive
    timer := by
      simpa only [timerSound_iff, htimer, hnow, hhalf, hstamp] using timerSound_iff.1 hs.timer
    queue := by simpa only [QueueSound, hqueue, hnow, hstamp] using hs.queue
    timePositive := hnow ▸ hs.timePositive
    latches := by rw [hlatches, hcfg, hs.latches]
    memory := hnvram ▸ hs.memory }

/-! ### Power-on -/

theorem inv_resetOf {cfg : Config} (hwf : cfg.wf = true) : Inv (State.resetOf cfg) where
  config := hwf
  cvStore := cvStoreSound_of_reset_store rfl rfl
  push c := by cases c <;> simp [State.resetOf, PerContour.get]
  halfPositive _ h := by cases h
  timer := trivial
  queue := ⟨by simp [State.resetOf], .nil, by simp [State.resetOf]⟩
  timePositive := le_rfl
  latches := by simp [State.resetOf]
  memory := State.resetOf_nvram_wf cfg

/-- Settles O36: the board meets its constraints, and power-on of any such board is sound. -/
theorem resetStateIsSound : Obligations.ResetStateIsSound := inv_resetOf Config.board_wf

/-- Settles O35: power-on's one equation, field by field. -/
theorem resetLeavesPowerOnState : Obligations.ResetLeavesPowerOnState := by
  intro s
  refine ⟨_, rfl, ?store, rfl, ?contours, rfl, rfl, rfl, rfl, rfl, rfl, rfl, rfl, ?latches,
    ⟨rfl, rfl, rfl, rfl⟩, rfl⟩
  case store =>
    intro j hj
    simp [Config.cvReset]
  case contours =>
    intro c
    cases c <;> exact ⟨rfl, rfl, rfl⟩
  case latches => simp

/-- Power-on establishes the invariant anew; the parameters and the memory it leaves were sound. -/
theorem Inv.reset (hs : Inv s) (h : exec .reset s = .next t) : Inv t := by
  cases h
  exact { inv_resetOf hs.config with
    latches := by simp
    memory := hs.memory }

/-! ### Deferral -/

/-- In a sound queue a deferral for the present instant goes to the very end. -/
theorem QueueSound.insertEntry_now (hs : QueueSound s) (stamp : Nat) (op : Deferred) :
    insertEntry ⟨s.now, stamp, op⟩ s.queue = s.queue ++ [⟨s.now, stamp, op⟩] :=
  insertEntry_append fun x hx => (hs.1 x hx).not_gt

theorem QueueSound.scheduleNow (hs : QueueSound s) (op : Deferred) :
    QueueSound (s.scheduleNow op) := by
  obtain ⟨htime, hrising, hbelow⟩ := hs
  have hqueue : (s.scheduleNow op).queue = s.queue ++ [⟨s.now, s.stamp, op⟩] :=
    QueueSound.insertEntry_now ⟨htime, hrising, hbelow⟩ s.stamp op
  refine ⟨?_, ?_, ?_⟩
  · intro x hx
    rcases List.mem_append.1 (hqueue ▸ hx) with hx | hx
    · exact htime x hx
    · rw [List.mem_singleton.1 hx, State.scheduleNow_now]
  · rw [hqueue, List.map_append, List.pairwise_append]
    refine ⟨hrising, by simp, fun a ha b hb => ?_⟩
    obtain ⟨x, hx, rfl⟩ := List.mem_map.1 ha
    rw [List.mem_singleton.1 hb]
    exact hbelow x hx
  · intro x hx
    rw [State.scheduleNow_stamp]
    rcases List.mem_append.1 (hqueue ▸ hx) with hx | hx
    · exact Nat.lt_succ_of_lt (hbelow x hx)
    · rw [List.mem_singleton.1 hx]
      exact Nat.lt_succ_self _

theorem Inv.scheduleNow (hs : Inv s) (op : Deferred) : Inv (s.scheduleNow op) :=
  { hs with
    timer := timerSound_iff.2 fun next period stamp harmed => by
      obtain ⟨hnow, hnext, hperiod, hhalf, hstamp⟩ := timerSound_iff.1 hs.timer _ _ _ harmed
      exact ⟨hnow, hnext, hperiod, hhalf, Nat.lt_succ_of_lt hstamp⟩
    queue := hs.queue.scheduleNow op }

/-! ### The CV write -/

theorem Inv.dispatchCv (hs : Inv s) (ch : Fin Config.cvChannels) (v : Volts) :
    Inv (s.dispatchCv ch v) := by
  unfold State.dispatchCv
  split
  · exact hs.of_ruled_eq rfl
  · exact hs.of_ruled_eq rfl
  · exact hs.scheduleNow _
  · exact hs

theorem Inv.writeCv (hs : Inv s) (ch : Fin Config.cvChannels) (d : Byte) :
    Inv (s.writeCv ch d) := by
  by_cases hsame : voltage d = s.cvVolt[ch]
  · rwa [State.writeCv_redundant s hsame]
  · rw [State.writeCv_changed s hsame]
    have hstored : Inv (s.storeCv ch d) := { hs with cvStore := hs.cvStore.storeCv ch d }
    exact hstored.dispatchCv ch _

theorem Inv.cvw (hs : Inv s) {m : BitVec 3} {e : BitVec 5} {d : Byte} {p : Bool}
    (h : exec (.cvw m e d p) s = .next t) : Inv t := by
  by_cases he : e.toNat < Config.cvChannels
  · cases (exec_cvw_connected s m d p he).symm.trans h
    exact (hs.writeCv _ d).of_ruled_eq rfl
  · cases (exec_cvw_unconnected s m d p (not_lt.1 he)).symm.trans h
    exact hs.of_ruled_eq rfl

/-! ### The recomputes -/

theorem egResistance_pos {cfg : Config} (hwf : cfg.wf = true) (c : Contour) {current : Amps}
    (hcur : 0 < current) : 0 < egResistance cfg c current := by
  have hdiv := Config.wf_divider hwf c
  unfold egResistance Config.otaGm
  positivity

theorem lfoHalfPeriod_pos {cfg : Config} (hwf : cfg.wf = true) {current : Amps}
    (hcur : 0 < current) : 0 < lfoHalfPeriod cfg current := by
  obtain ⟨hpeak, hcap⟩ := Config.wf_lfo hwf
  unfold lfoHalfPeriod
  positivity

theorem PushSound.egPush (hs : PushSound s) (c : Contour) {r : Ohms} (v : Volts) (hr : 0 < r) :
    PushSound (s.egPush c r v) := by
  intro c'
  rw [State.egPush_egR, State.egPush_egTarget]
  by_cases hc : c' = c
  · subst hc
    rw [PerContour.get_set_same, PerContour.get_set_same]
    exact ⟨fun x hx => Option.some.inj hx ▸ hr, rfl⟩
  · rw [PerContour.get_set_other _ _ hc, PerContour.get_set_other _ _ hc]
    exact hs c'

theorem Inv.egrc (hs : Inv s) {c : Contour} (h : exec (.egrc c) s = .next t) : Inv t := by
  rcases le_or_gt (s.egCurrent.get c) 0 with hcur | hcur
  · cases (execEgrc_skip s hcur).symm.trans h
    exact hs.of_ruled_eq rfl
  · cases (execEgrc_push s hcur).symm.trans h
    exact { hs with push := hs.push.egPush c _ (egResistance_pos hs.config c hcur) }

/-- The share of the half-cycle still to come lies between none and all of it (42_lfo.md rule
R139). -/
theorem Inv.timerFraction_mem (hs : Inv s) : 0 ≤ s.timerFraction ∧ s.timerFraction ≤ 1 := by
  unfold State.timerFraction
  split
  next => exact ⟨le_rfl, zero_le_one⟩
  next next period stamp harmed =>
    obtain ⟨hnow, hnext, hperiod, -, -⟩ := timerSound_iff.1 hs.timer _ _ _ harmed
    exact ⟨div_nonneg (sub_nonneg.2 hnow) hperiod.le, (div_le_one hperiod).2 (by linarith)⟩

theorem Inv.lforc (hs : Inv s) (h : exec .lforc s = .next t) : Inv t := by
  rcases le_or_gt s.lfoCurrent 0 with hcur | hcur
  · cases (execLforc_disarm s hcur).symm.trans h
    exact { hs with timer := trivial }
  · cases (execLforc_arm s hcur).symm.trans h
    have hhalf := lfoHalfPeriod_pos hs.config hcur
    obtain ⟨hnonneg, hle⟩ := hs.timerFraction_mem
    exact { hs with
      halfPositive := fun x hx => Option.some.inj hx ▸ hhalf
      timer := ⟨le_add_of_nonneg_right (mul_nonneg hhalf.le hnonneg),
        by simpa using mul_le_of_le_one_right hhalf.le hle, hhalf, rfl, Nat.lt_succ_self _⟩
      queue := ⟨hs.queue.1, hs.queue.2.1, fun x hx => Nat.lt_succ_of_lt (hs.queue.2.2 x hx)⟩ }

/-! ### Every operation -/

theorem exec_keeps_inv (hs : Inv s) (h : exec i s = .next t) : Inv t := by
  cases i with
  | cvw m e d p => exact hs.cvw h
  | egrc c => exact hs.egrc h
  | lforc => exact hs.lforc h
  | reset => exact hs.reset h
  | egnote c v =>
    cases h
    exact Inv.scheduleNow (s := { s with egCurrent := s.egCurrent.set c v }) (hs.of_ruled_eq rfl) _
  | lfonote v =>
    cases h
    exact Inv.scheduleNow (s := { s with lfoCurrent := v }) (hs.of_ruled_eq rfl) _
  | olw k d p =>
    cases h
    exact { hs with latches := (List.length_set ..).trans hs.latches }
  | nvw off d p =>
    cases h
    exact { hs with memory := Memory.write_wf off d hs.memory }
  | encr p => cases p <;> cases h <;> exact hs.of_ruled_eq rfl
  | roww | btnr | kbdr | edw | pdw | nvr | lfotick | octchg | encmov =>
    cases h
    exact hs.of_ruled_eq rfl

theorem receive_keeps_inv {w : Wire} (hs : Inv s) (h : receive w s = .next t) : Inv t := by
  obtain ⟨i, -, hi⟩ | ⟨r, -, rfl⟩ := receive_cases h
  · exact exec_keeps_inv hs hi
  · cases r <;> exact hs.of_ruled_eq rfl

/-! ### The scheduler -/

/-- While entries wait, the earliest pending item is due at this very instant. -/
theorem Inv.earliest_time (hs : Inv s) {p : Pending} (hp : s.earliest = some p)
    (hwaiting : s.queue ≠ []) : p.time = s.now := by
  obtain ⟨e, q, hqueue, rfl, -⟩ | ⟨next, period, stamp, harmed, rfl, hfirst⟩ :=
    State.earliest_cases hp
  · exact hs.queue.1 e (hqueue ▸ List.mem_cons_self)
  · obtain ⟨e, q, hqueue⟩ := List.exists_cons_of_ne_nil hwaiting
    have hentry : e.time = s.now := hs.queue.1 e (hqueue ▸ List.mem_cons_self)
    have hnow := (timerSound_iff.1 hs.timer _ _ _ harmed).1
    have hfirst' : next < e.time ∨ next = e.time ∧ stamp < e.stamp := by
      simpa [firingFirst] using hfirst e (by simp [hqueue])
    rcases hfirst' with hlt | ⟨heq, -⟩
    · exact absurd (hentry ▸ hlt) hnow.not_gt
    · exact heq.trans hentry

/-- Taking a pending item keeps the invariant: an entry is for this instant, and a firing moves time
only where no entry waits. -/
theorem Inv.takePending (hs : Inv s) {p : Pending} (hp : s.earliest = some p) :
    Inv (s.takePending p) := by
  obtain ⟨e, q, hqueue, rfl, -⟩ | ⟨next, period, stamp, harmed, rfl, -⟩ := State.earliest_cases hp
  · have htime : e.time = s.now := hs.queue.1 e (hqueue ▸ List.mem_cons_self)
    have htail : ∀ x ∈ s.queue.tail, x ∈ s.queue := fun _ => List.mem_of_mem_tail
    rw [State.takePending, State.moveTo_eq_max, htime, max_self]
    exact { hs with
      queue := ⟨fun x hx => hs.queue.1 x (htail x hx),
        List.map_tail ▸ hs.queue.2.1.tail, fun x hx => hs.queue.2.2 x (htail x hx)⟩ }
  · obtain ⟨hnow, hnext, hperiod, hhalf, hstamp⟩ := timerSound_iff.1 hs.timer _ _ _ harmed
    rw [State.takePending, State.moveTo_eq_max, max_eq_right hnow]
    exact { hs with
      timer := ⟨by simpa using hperiod.le, le_rfl, hperiod, hhalf, hstamp⟩
      queue := ⟨fun x hx => (hs.queue.1 x hx).trans
        (hs.earliest_time hp (List.ne_nil_of_mem hx)).symm, hs.queue.2⟩
      timePositive := hs.timePositive.trans hnow }

/-- Time may move up to the earliest pending item. -/
theorem Inv.moveTo (hs : Inv s) {u : Seconds} (hu : ∀ p, s.earliest = some p → u ≤ p.time) :
    Inv (s.moveTo u) := by
  rw [State.moveTo_eq_max]
  rcases le_or_gt u s.now with hle | hlt
  · rwa [max_eq_left hle]
  · have hempty : s.queue = [] := by
      by_contra hwaiting
      obtain ⟨p, hp⟩ : ∃ p, s.earliest = some p := by
        by_contra hnone
        exact hwaiting (State.earliest_none (Option.eq_none_iff_forall_ne_some.2
          fun p hp => hnone ⟨p, hp⟩)).1
      exact absurd (hs.earliest_time hp hwaiting ▸ hu p hp) hlt.not_ge
    rw [max_eq_right hlt.le]
    exact { hs with
      timer := timerSound_iff.2 fun next period stamp harmed => by
        obtain ⟨-, hnext, hperiod, hhalf, hstamp⟩ := timerSound_iff.1 hs.timer _ _ _ harmed
        have hon : s.lfoTimer = .armed next period stamp := harmed
        have hfiring : u ≤ next := hu (.firing next period stamp) (by
          simp only [State.earliest, hempty, hon])
        exact ⟨hfiring, hnext.trans (add_le_add_left hlt.le period), hperiod, hhalf, hstamp⟩
      queue := ⟨by simp [hempty], hs.queue.2⟩
      timePositive := hs.timePositive.trans hlt.le }

/-- Settles O43: in each case of a step the state the operation runs in is sound, and the operation
keeps it so. -/
theorem everyStepKeepsTheInvariant : Obligations.EveryStepKeepsTheInvariant := by
  intro s t hs h
  have hstart : Inv s.startStep := hs.of_ruled_eq rfl
  have htake : Inv s.startStep.takeInput := hs.of_ruled_eq rfl
  obtain ⟨-, rfl⟩ | ⟨w, -, -, hw, -⟩ | ⟨p, s0, hp, hs0, hdeliver⟩ | rfl | ⟨u, hu, rfl⟩ | ⟨c, rfl⟩ :=
    step_cases h
  · exact hs
  · exact receive_keeps_inv htake hw
  · obtain rfl | rfl := hs0
    · exact receive_keeps_inv (hstart.takePending hp) hdeliver
    · exact receive_keeps_inv (htake.takePending hp) hdeliver
  · exact htake
  · exact htake.moveTo hu
  · exact htake.of_ruled_eq rfl

end Sys2Proof.Machine

/-! PROOF. The CV write (40_cv_store.md sections 2 and 3): what a changed and a redundant write
leave, the dispatch by the channel's class, the named channels' classes, and the debit of a
sequence. -/

namespace Sys2Proof.Machine

variable {s t : State}

/-! ### The store after a write -/

/-- In a sound store the redundancy test on voltages is one on bytes. -/
theorem CvStoreSound.voltage_eq_iff (hs : CvStoreSound s) (ch : Fin Config.cvChannels) (d : Byte) :
    voltage d = s.cvVolt[ch] ↔ d = s.cvRaw[ch] := by
  have hch : s.cvVolt[ch] = voltage s.cvRaw[ch] := (hs ch ch.isLt).trans (voltage_eq _).symm
  rw [hch]
  exact ⟨voltage_injective, congrArg voltage⟩

theorem State.writeCv_store {ch : Fin Config.cvChannels} {d : Byte}
    (h : voltage d ≠ s.cvVolt[ch]) :
    (s.writeCv ch d).cvRaw = s.cvRaw.set ch d
      ∧ (s.writeCv ch d).cvVolt = s.cvVolt.set ch (voltage d) := by
  rw [State.writeCv_changed s h]
  simp

/-- Redundant or not, a write leaves the channel at the voltage of its byte. -/
theorem State.writeCv_cvVolt_self (s : State) (ch : Fin Config.cvChannels) (d : Byte) :
    (s.writeCv ch d).cvVolt[ch] = voltage d := by
  by_cases hsame : voltage d = s.cvVolt[ch]
  · rw [State.writeCv_redundant s hsame, hsame]
  · rw [(State.writeCv_store hsame).2]
    simp

/-- Settles O2: the two stores are of one channel, and the frame is the write's. -/
theorem cvwChangedWriteStoresByteAndVoltage : Obligations.CvwChangedWriteStoresByteAndVoltage := by
  intro s m e d p he hchanged
  rw [← voltage_eq] at hchanged ⊢
  obtain ⟨hraw, hvolt⟩ := State.writeCv_store (ch := ⟨e.toNat, he⟩) hchanged
  refine ⟨_, exec_cvw_connected s m d p he, ?raw, ?volt, ?sound, ?others, ?frame⟩
  case raw => simp [hraw]
  case volt => simp [hvolt]
  case sound => exact fun hs => (hs.writeCv ⟨e.toNat, he⟩ d).of_same_store rfl rfl
  case others =>
    intro j hj hne
    simp [hraw, hvolt, hne.symm]
  case frame =>
    rw [State.writeCv_frame]

/-! ### Redundant writes -/

/-- A write of the voltage the channel has only debits. -/
theorem exec_cvw_redundant {m : BitVec 3} {e : BitVec 5} {d : Byte} {p : Bool}
    (he : e.toNat < Config.cvChannels) (hsame : voltage d = s.cvVolt[e.toNat]) :
    exec (.cvw m e d p) s = .next { s with trace := s.trace ++ debitCalls p } := by
  have hcalls : s.writeCalls ⟨e.toNat, he⟩ d = [] := if_pos hsame
  rw [exec_cvw_connected s m d p he, State.writeCv_redundant s hsame, hcalls, List.append_nil]

/-- Settles O3: a changed write would change the raw byte, a redundant one only debits. -/
theorem cvwRedundantWriteOnlyDebits : Obligations.CvwRedundantWriteOnlyDebits := by
  intro s m e d p he hs
  constructor
  · intro h
    by_contra hne
    have hchanged : voltage d ≠ s.cvVolt[(⟨e.toNat, he⟩ : Fin Config.cvChannels)] :=
      fun hsame => hne ((hs.voltage_eq_iff _ d).1 hsame)
    rw [exec_cvw_connected s m d p he, Host.Outcome.next.injEq] at h
    have hkept := congrArg State.cvRaw h
    have hraw : s.cvRaw.set e.toNat d = s.cvRaw :=
      (State.writeCv_store hchanged).1.symm.trans hkept
    apply hne
    rw [← hraw]
    simp
  · exact fun hsame => exec_cvw_redundant he ((hs.voltage_eq_iff ⟨e.toNat, he⟩ d).2 hsame)

/-- Settles O8: after a write the same write is redundant, and at an unconnected entry every write
only debits. -/
theorem cvwTwiceLeavesTheStateOfOnce : Obligations.CvwTwiceLeavesTheStateOfOnce := by
  intro s t m e d p h
  by_cases he : e.toNat < Config.cvChannels
  · cases (exec_cvw_connected s m d p he).symm.trans h
    exact exec_cvw_redundant he (State.writeCv_cvVolt_self s ⟨e.toNat, he⟩ d).symm
  · exact exec_cvw_unconnected t m d p (not_lt.1 he)

/-- Settles O4: entries 24 and above are unconnected. -/
theorem unconnectedEntryOnlyDebits : Obligations.UnconnectedEntryOnlyDebits :=
  fun s addr d p h => ⟨_, rfl,
    exec_cvw_unconnected s _ d p ((ioEntry_ioAddress_toNat addr).symm ▸ h)⟩

/-! ### The dispatch -/

theorem deferredNow_scheduleNow (s : State) (op : Deferred) :
    DeferredNow s (s.scheduleNow op) op := by
  obtain ⟨front, back, hsplit, hinsert, hfront, hback⟩ :=
    insertEntry_split ⟨s.now, s.stamp, op⟩ s.queue
  exact ⟨front, back, hsplit, hinsert, fun x hx => not_lt.1 (hfront x hx), hback, rfl⟩

/-- Settles O5: the debit, then the calls and the deferral of the channel's class. -/
theorem cvwDispatchesByChannelClass : Obligations.CvwDispatchesByChannelClass := by
  intro s m e d p he hchanged
  rw [← voltage_eq] at hchanged ⊢
  refine ⟨_, exec_cvw_connected s m d p he, ?_⟩
  rw [State.writeCv_changed s hchanged, State.writeCalls_changed hchanged]
  cases hclass : chanClass s.cfg ⟨e.toNat, he⟩ with
  | egRate c => simp [State.dispatchCv, forwardCalls, hclass]
  | lfoRate => simp [State.dispatchCv, forwardCalls, hclass]
  | egLevel c =>
    simp only [State.dispatchCv, forwardCalls, State.storeCv_cfg, hclass, List.append_nil, and_true]
    exact deferredNow_scheduleNow s (.egrc c)
  | plain => simp [State.dispatchCv, forwardCalls, hclass]

/-- Settles O6: the seven named channels are pairwise distinct, so that each meets its own test. -/
theorem namedChannelsHaveTheirClasses : Obligations.NamedChannelsHaveTheirClasses := by
  intro cfg hwf
  have hdistinct := Config.wf_channels hwf
  simp only [Config.namedChannels, List.nodup_cons, List.mem_cons, List.not_mem_nil, or_false,
    not_or, not_false_eq_true, List.nodup_nil, and_true] at hdistinct
  obtain ⟨⟨hcm, hck, hcf, hcl, hcF, hcL⟩, ⟨hmk, hmf, hml, hmF, hmL⟩, ⟨hkf, hkl, hkF, hkL⟩,
    ⟨hfl, hfF, hfL⟩, ⟨hlF, hlL⟩, hFL⟩ := hdistinct
  refine ⟨fun c => ?contours, ?modRate, ?cutoff, ?keyboard⟩
  case contours =>
    cases c with
    | filter =>
      simp [chanClass, PerContour.get, Ne.symm hfF, Ne.symm hlF, Ne.symm hmF]
    | loudness =>
      simp [chanClass, PerContour.get, Ne.symm hfl, Ne.symm hfL, Ne.symm hlL, Ne.symm hmL,
        Ne.symm hFL]
  case modRate => simp [chanClass, hmf, hml]
  case cutoff => simp [chanClass, hcf, hcl, hcm, hcF, hcL]
  case keyboard => simp [chanClass, hkf, hkl, hkF, hkL, Ne.symm hmk, Ne.symm hck]

/-! ### The debit of a sequence -/

theorem budgetSum_append (calls calls' : List OutCall) :
    budgetSum (calls ++ calls') = budgetSum calls + budgetSum calls' := by
  simp only [budgetSum, List.map_append, List.sum_append]

theorem budgetSum_debitCalls (p : Bool) : budgetSum (debitCalls p) = if p then 0 else -32 := by
  cases p <;> rfl

theorem budgetSum_forwards {calls : List OutCall}
    (h : ∀ c ∈ calls, ∃ id v, c = .setAnalogInput id v) : budgetSum calls = 0 := by
  refine List.sum_eq_zero fun x hx => ?_
  obtain ⟨c, hc, rfl⟩ := List.mem_map.1 hx
  obtain ⟨id, v, rfl⟩ := h c hc
  rfl

theorem exec_cvw_budget {m : BitVec 3} {e : BitVec 5} {d : Byte} {p : Bool}
    (h : exec (.cvw m e d p) s = .next t) :
    budgetSum t.trace = budgetSum s.trace + if p then 0 else -32 := by
  obtain ⟨raw, volt, queue, stamp, calls, rfl, hcalls⟩ := exec_cvw_cases h
  simp only [budgetSum_append, budgetSum_debitCalls, budgetSum_forwards hcalls, add_zero]

/-- Settles O9, by induction on the writes. -/
theorem cvwSequenceDebits32CyclesEach : Obligations.CvwSequenceDebits32CyclesEach := by
  intro writes
  induction writes with
  | nil => exact fun s => ⟨s, rfl, by simp⟩
  | cons w writes ih =>
    intro s
    obtain ⟨m, e, d, p⟩ := w
    obtain ⟨u, hu⟩ := exec_answers (.cvw m e d p) s
    obtain ⟨t, ht, hsum⟩ := ih u
    refine ⟨t, ?_, ?_⟩
    · simpa only [List.map_cons, execAll, hu] using ht
    · rw [hsum, exec_cvw_budget hu, List.countP_cons]
      cases p with
      | false =>
        simp only [Bool.false_eq_true, if_false, Bool.not_false, if_true]
        push_cast
        ring
      | true => simp

end Sys2Proof.Machine

/-! PROOF. The step, action by action: what is delivered from outside runs or is ignored, and what
the scheduler's directives do with the earliest pending item (20_memory.md section 3, 30_encoding.md
section 5). -/

namespace Sys2Proof.Machine

variable {s t : State} {rest : List Input}

/-! ### The state an action starts from -/

theorem takeInput_startStep {a : Input} (h : s.inbox = a :: rest) :
    s.startStep.takeInput = { s with inbox := rest, draws := s.draws + 1 } := by
  simp only [State.takeInput, State.startStep, h, List.tail_cons]

theorem receive_decoded {w : Wire} {i : Instr} (h : decode s.cfg w = .ok i) :
    receive w s = exec i s := by
  rw [receive, h]

theorem receive_rejected {w : Wire} {r : Reject} (h : decode s.cfg w = .error r) :
    receive w s = .next (s.ignore r) := by
  rw [receive, h]

/-! ### Deliveries from outside the scheduler -/

theorem step_bus {b : BusTxn} (h : s.inbox = .bus b :: rest) :
    step s = receive (.bus b) { s with inbox := rest, draws := s.draws + 1 } := by
  rw [step_of_inbox h, act, takeInput_startStep h]

theorem step_bus_decoded {b : BusTxn} {i : Instr} (h : s.inbox = .bus b :: rest)
    (hb : decodeBus s.cfg b = .ok i) :
    step s = exec i { s with inbox := rest, draws := s.draws + 1 } :=
  (step_bus h).trans (receive_decoded hb)

theorem step_notify {id : SolverId} {v : Amps} (h : s.inbox = .notify id v :: rest) :
    step s = receive (.notify id v) { s with inbox := rest, draws := s.draws + 1 } := by
  rw [step_of_inbox h, act, takeInput_startStep h]

/-- A word that is a frame stands at the head of the inbox as its transaction. -/
theorem withFetchWord_eq {nbits w : Nat} {b : BusTxn}
    (h : decodeFrame (BitVec.ofNat 32 (w % 2 ^ nbits)) = .ok b) :
    s.withFetchWord nbits w = { s with inbox := .bus b :: s.inbox } := by
  rw [State.withFetchWord, State.withFrame, h]

/-- Settles O48: each action's delivery decodes to its operation. -/
theorem stepRunsTheDecodedOperation : Obligations.StepRunsTheDecodedOperation := by
  intro s rest i
  refine ⟨fun b => step_bus_decoded,
    fun id v hin hi => (step_notify hin).trans (receive_decoded hi), fun raw hin => ?octave,
    fun o n hin => ?encoder, fun hin => ?powerOn, fun nbits w b hw hb => ?word⟩
  case octave => rw [step_of_inbox hin, act, takeInput_startStep hin, receive_decoded rfl]
  case encoder => rw [step_of_inbox hin, act, takeInput_startStep hin, receive_decoded rfl]
  case powerOn => rw [step_of_inbox hin, act, takeInput_startStep hin, receive_decoded rfl]
  case word =>
    rw [withFetchWord_eq hw]
    exact step_bus_decoded rfl hb

theorem decodeNotification_foreign {cfg : Config} {id : SolverId} {v : Amps}
    (hcontours : ∀ c, id ≠ cfg.solverOutRate.get c) (hlfo : id ≠ cfg.solverOutLfoRate) :
    decodeNotification cfg id v = .error .foreignNotification := by
  have hfilter : id ≠ cfg.solverOutRate.filter := hcontours .filter
  have hloudness : id ≠ cfg.solverOutRate.loudness := hcontours .loudness
  simp only [decodeNotification, hfilter, hloudness, hlfo, if_false]

/-- Settles O49: each of the four is rejected, and what is rejected is ignored. -/
theorem undecodedAccessesChangeNothing : Obligations.UndecodedAccessesChangeNothing := by
  intro s rest
  refine ⟨fun a p hin => ⟨_, (step_bus hin).trans (receive_rejected (r := .ioRead) rfl)⟩,
    fun a p hin hmap => ⟨_, (step_bus hin).trans (receive_rejected (r := .unmappedRead) ?read)⟩,
    fun a d p hin hmap => (step_bus hin).trans (receive_rejected (r := .unmappedWrite) ?write),
    fun id v hin hcontours hlfo =>
      (step_notify hin).trans (receive_rejected (r := .foreignNotification) ?foreign)⟩
  case read => exact decodeBus_read_mapped hmap p
  case write => exact decodeBus_write_mapped hmap d p
  case foreign => exact decodeNotification_foreign hcontours hlfo

/-! ### The earliest pending item -/

theorem firingFirst_iff {next : Seconds} {stamp : Nat} {e : QueueEntry} :
    firingFirst next stamp e = true ↔ next < e.time ∨ (next = e.time ∧ stamp < e.stamp) := by
  simp [firingFirst]

section
variable {e : QueueEntry} {q : List QueueEntry} {next period : Seconds} {stamp : Nat}

theorem State.earliest_disarmed (hqueue : s.queue = e :: q) (htimer : s.lfoTimer = .disarmed) :
    s.earliest = some (.entry e) := by
  simp only [State.earliest, hqueue, htimer]

theorem State.earliest_firing_alone (hqueue : s.queue = [])
    (htimer : s.lfoTimer = .armed next period stamp) :
    s.earliest = some (.firing next period stamp) := by
  simp only [State.earliest, hqueue, htimer]

theorem State.earliest_firing (hqueue : s.queue = e :: q)
    (htimer : s.lfoTimer = .armed next period stamp)
    (hfirst : next < e.time ∨ (next = e.time ∧ stamp < e.stamp)) :
    s.earliest = some (.firing next period stamp) := by
  simp only [State.earliest, hqueue, htimer, firingFirst_iff.2 hfirst, if_true]

theorem State.earliest_entry (hqueue : s.queue = e :: q)
    (htimer : s.lfoTimer = .armed next period stamp)
    (hfirst : e.time < next ∨ (next = e.time ∧ e.stamp ≤ stamp)) :
    s.earliest = some (.entry e) := by
  have hnot : ¬ firingFirst next stamp e = true := by
    rw [firingFirst_iff]
    rcases hfirst with hlt | ⟨rfl, hle⟩
    · exact fun h => h.elim hlt.not_gt fun h => hlt.ne' h.1
    · exact fun h => h.elim (lt_irrefl _) fun h => hle.not_gt h.2
  simp only [State.earliest, hqueue, htimer, hnot, if_false, Bool.false_eq_true]

/-- The delivery of an entry runs its operation at its time, with the entry out of the queue. -/
theorem deliverPending_entry (s : State) (e : QueueEntry) :
    deliverPending (.entry e) s
      = exec e.op.toInstr { s with queue := s.queue.tail, now := max s.now e.time } := by
  rw [deliverPending_eq, State.takePending, State.moveTo_eq_max]

/-- The delivery of a firing runs the tick at its time, with the next firing one period on. -/
theorem deliverPending_firing (s : State) (next period : Seconds) (stamp : Nat) :
    deliverPending (.firing next period stamp) s = exec .lfotick { s with
      lfoTimer := .armed (next + period) period stamp, now := max s.now next } := by
  rw [deliverPending_eq, State.takePending, State.moveTo_eq_max]

end

/-- A delivery takes no action from the inbox. -/
theorem deliverPending_inbox {p : Pending} (h : deliverPending p s = .next t) :
    t.inbox = s.inbox := by
  rw [deliverPending_eq] at h
  obtain ⟨⟨-, -, hinbox, -⟩, -⟩ := operationsLeaveTheOutsideAlone _ _ _ h
  cases p <;> exact hinbox

/-! ### The scheduler's directives -/

theorem step_deliver {p : Pending} (h : s.inbox = .deliver :: rest) (hp : s.earliest = some p) :
    step s = deliverPending p { s with inbox := rest, draws := s.draws + 1 } := by
  have hp' : s.startStep.earliest = some p := hp
  simp only [step_of_inbox h, act, hp', takeInput_startStep h]

theorem step_run_due {p : Pending} (h : s.inbox = .run :: rest) (hp : s.earliest = some p)
    (hdue : p.time ≤ s.now) :
    step s = deliverPending p { s with draws := s.draws + 1 } := by
  have hp' : s.startStep.dueBy s.startStep.now = some p := State.dueBy_eq_some.2 ⟨hp, hdue⟩
  simp only [step_of_inbox h, act, hp']
  rfl

theorem step_run_idle (h : s.inbox = .run :: rest)
    (hnone : ∀ p, s.earliest = some p → s.now < p.time) :
    step s = .next { s with inbox := rest, draws := s.draws + 1 } := by
  have hnone' : s.startStep.dueBy s.startStep.now = none := State.dueBy_eq_none.2 hnone
  simp only [step_of_inbox h, act, hnone', takeInput_startStep h]

theorem step_advance_due {u : Seconds} {p : Pending} (h : s.inbox = .advance u :: rest)
    (hp : s.earliest = some p) (hdue : p.time ≤ u) :
    step s = deliverPending p { s with draws := s.draws + 1 } := by
  have hp' : s.startStep.dueBy u = some p := State.dueBy_eq_some.2 ⟨hp, hdue⟩
  simp only [step_of_inbox h, act, hp']
  rfl

theorem step_advance_idle {u : Seconds} (h : s.inbox = .advance u :: rest)
    (hnone : ∀ p, s.earliest = some p → u < p.time) :
    step s = .next { s with inbox := rest, draws := s.draws + 1, now := max s.now u } := by
  have hnone' : s.startStep.dueBy u = none := State.dueBy_eq_none.2 hnone
  simp only [step_of_inbox h, act, hnone', takeInput_startStep h, State.moveTo_eq_max]

theorem State.elapse_idle (h : s.earliest = none) (u : Seconds) :
    s.elapse u = { s with now := max s.now u } := by
  have hnone : s.dueBy u = none := State.dueBy_eq_none.2 (by simp [h])
  rw [State.elapse, hnone, State.moveTo_eq_max]

theorem State.elapse_pending {p : Pending} (h : s.earliest = some p) (u : Seconds) :
    s.elapse u = { s with now := max s.now (min u p.time) } := by
  rcases le_or_gt p.time u with hdue | hlater
  · have hp : s.dueBy u = some p := State.dueBy_eq_some.2 ⟨h, hdue⟩
    simp only [State.elapse, hp, State.moveTo_eq_max, min_eq_right hdue]
  · have hnone : s.dueBy u = none := State.dueBy_eq_none.2 fun q hq =>
      Option.some.inj (h.symm.trans hq) ▸ hlater
    simp only [State.elapse, hnone, State.moveTo_eq_max, min_eq_left hlater.le]

theorem step_elapse_idle {u : Seconds} (h : s.inbox = .elapse u :: rest)
    (hnone : s.earliest = none) :
    step s = .next { s with inbox := rest, draws := s.draws + 1, now := max s.now u } := by
  rw [step_of_inbox h, act, State.elapse_idle (s := s.startStep.takeInput) hnone,
    takeInput_startStep h]

theorem step_elapse_pending {u : Seconds} {p : Pending} (h : s.inbox = .elapse u :: rest)
    (hp : s.earliest = some p) :
    step s = .next { s with
      inbox := rest, draws := s.draws + 1, now := max s.now (min u p.time) } := by
  rw [step_of_inbox h, act, State.elapse_pending (s := s.startStep.takeInput) hp,
    takeInput_startStep h]

/-! ### The obligations -/

/-- Settles O20: the delivery of the firing, which is the earliest item of an empty queue. -/
theorem firingTicksAndMovesOnePeriodOn : Obligations.FiringTicksAndMovesOnePeriodOn := by
  intro s next period stamp rest hin hqueue htimer hnow
  have hstep := step_deliver hin (State.earliest_firing_alone hqueue htimer)
  rw [deliverPending_firing, exec_lfotick] at hstep
  exact ⟨_, hstep, max_eq_right hnow, rfl, rfl, rfl, rfl⟩

/-- Settles O46: in each case which item is the earliest, and that item's delivery. -/
theorem schedulerDeliversEarliestFirst : Obligations.SchedulerDeliversEarliestFirst := by
  intro s rest e q hqueue
  refine ⟨fun hin => ⟨fun hoff => ?entryAlone, fun next period stamp hon =>
    ⟨fun hfirst => ?firing, fun hfirst => ?entry⟩⟩, fun hin hoff hdue => ?run⟩
  case entryAlone =>
    rw [step_deliver hin (State.earliest_disarmed hqueue hoff), deliverPending_entry]
    simp only [hqueue, List.tail_cons]
  case firing =>
    rw [step_deliver hin (State.earliest_firing hqueue hon hfirst), deliverPending_firing]
  case entry =>
    rw [step_deliver hin (State.earliest_entry hqueue hon hfirst), deliverPending_entry]
    simp only [hqueue, List.tail_cons]
  case run =>
    rw [step_run_due hin (State.earliest_disarmed hqueue hoff) hdue, deliverPending_entry]
    simp only [hqueue, List.tail_cons, max_eq_left hdue]

/-- Settles O47: the delivery of the due item leaves the inbox, and with nothing due the earliest
item is what it was. -/
theorem advanceDeliversEverythingDue : Obligations.AdvanceDeliversEverythingDue := by
  intro s u rest hin
  refine ⟨fun p hp hdue => ⟨?delivery, fun t h => ?kept⟩,
    fun hnone => ⟨_, step_advance_idle hin hnone, rfl, hnone⟩⟩
  case delivery =>
    rw [step_advance_due hin hp hdue]
    cases p with
    | entry e => exact deliverPending_entry _ e
    | firing next period stamp => exact deliverPending_firing _ next period stamp
  case kept =>
    rw [step_advance_due hin hp hdue] at h
    have hkept := deliverPending_inbox h
    exact hkept

/-- Settles O56: as for `ADVANCE`, with time where it is, since the item is not later. -/
theorem runDeliversEverythingDueNow : Obligations.RunDeliversEverythingDueNow := by
  intro s rest hin
  refine ⟨fun p hp hdue => ⟨?delivery, fun t h => ?kept⟩, step_run_idle hin⟩
  case delivery =>
    rw [step_run_due hin hp hdue]
    cases p with
    | entry e =>
      rw [deliverPending_entry]
      simp only [max_eq_left (show e.time ≤ s.now from hdue)]
    | firing next period stamp =>
      rw [deliverPending_firing]
      simp only [max_eq_left (show next ≤ s.now from hdue)]
  case kept =>
    rw [step_run_due hin hp hdue] at h
    have hkept := deliverPending_inbox h
    exact hkept

/-- Settles O57, by whether an item is pending. -/
theorem elapsingTimeStopsAtPendingItem : Obligations.ElapsingTimeStopsAtPendingItem := by
  intro s u rest hin
  cases hearliest : s.earliest with
  | none =>
    exact ⟨_, step_elapse_idle hin hearliest, rfl, fun _ => rfl, fun _ h => by simp at h, hearliest⟩
  | some p =>
    refine ⟨_, step_elapse_pending hin hearliest, rfl, fun h => by simp at h, fun q hq => ?_,
      hearliest⟩
    rw [← Option.some.inj hq]

/-- Settles O58: time stops at the firing, or the firing is delivered; the transaction is next. -/
theorem transactionRunsBeforeOrAfterDueFiring :
    Obligations.TransactionRunsBeforeOrAfterDueFiring := by
  intro s next period stamp b i rest hqueue htimer hnow hb
  have hearliest := State.earliest_firing_alone hqueue htimer
  refine ⟨fun hin => ?before, fun hin => ?after⟩
  case before =>
    have hstep := step_elapse_pending hin hearliest
    simp only [Pending.time, min_self, max_eq_right hnow] at hstep
    exact ⟨_, hstep, step_bus_decoded rfl hb⟩
  case after =>
    have hstep := step_deliver hin hearliest
    rw [deliverPending_firing, exec_lfotick] at hstep
    simp only [max_eq_right hnow] at hstep
    exact ⟨_, hstep, step_bus_decoded rfl hb⟩

/-! ### Invariants of the step -/

/-- Only power-on selects RESET. -/
theorem decode_reset {cfg : Config} {w : Wire} (h : decode cfg w = .ok .reset) : w = .powerOn := by
  cases w with
  | powerOn => rfl
  | bus b => obtain ⟨m, e, d, p, hi⟩ | ⟨dir, a, hi, -⟩ := decodeBus_cases h <;> cases hi
  | notify id v => obtain ⟨c, hi⟩ | hi := decodeNotification_cases h <;> cases hi
  | queued d => cases d <;> cases h
  | octave | encoder | timer => cases h

/-- Time stands still while anything but power-on is received. -/
theorem receive_now {w : Wire} (hw : w ≠ .powerOn) (h : receive w s = .next t) :
    t.now = s.now := by
  obtain ⟨i, hdecode, hi⟩ | ⟨r, -, rfl⟩ := receive_cases h
  · obtain ⟨-, -, -, -, -, -, -, -, -, -, -, -, -, hnow⟩ :=
      registersAreWrittenOnlyByTheirOperations i s t hi fun hreset =>
        hw (decode_reset (hreset ▸ hdecode))
    exact hnow
  · cases r <;> rfl

theorem takePending_now_le (s : State) (p : Pending) : s.now ≤ (s.takePending p).now := by
  cases p <;> rw [State.takePending, State.moveTo_eq_max] <;> exact le_max_left _ _

/-- Settles O44: an operation leaves time alone, and the scheduler only moves it on. -/
theorem timeNeverDecreases : Obligations.TimeNeverDecreases := by
  intro s t h hpower
  obtain ⟨-, rfl⟩ | ⟨w, -, -, hw, hpowerOn⟩ | ⟨p, s0, -, hs0, hdeliver⟩ | rfl | ⟨u, -, rfl⟩
    | ⟨c, rfl⟩ := step_cases h
  · exact le_rfl
  · exact (receive_now (fun hw => hpower (hpowerOn hw)) hw).ge
  · have hnow : s0.now = s.now := by obtain rfl | rfl := hs0 <;> rfl
    rw [receive_now (by cases p <;> simp [Pending.wire]) hdeliver, ← hnow]
    exact takePending_now_le s0 p
  · exact le_rfl
  · rw [State.moveTo_eq_max]
    exact le_max_left _ _
  · exact le_rfl

theorem receive_keeps_line {w : Wire} (hs : lineLevel s.trace = s.irq)
    (h : receive w s = .next t) : lineLevel t.trace = t.irq := by
  obtain ⟨i, -, hi⟩ | ⟨r, -, rfl⟩ := receive_cases h
  · exact exec_keeps_line hs hi
  · cases r <;> exact hs

/-- Settles O42: every operation keeps the two together, and nothing else in a step touches them. -/
theorem interruptLineMirrorsIrq : Obligations.InterruptLineMirrorsIrq := by
  refine ⟨rfl, fun s t hs h => ?_⟩
  obtain ⟨-, rfl⟩ | ⟨w, -, -, hw, -⟩ | ⟨p, s0, -, hs0, hdeliver⟩ | rfl | ⟨u, -, rfl⟩ | ⟨c, rfl⟩ :=
    step_cases h
  · exact hs
  · exact receive_keeps_line (s := s.startStep.takeInput) hs hw
  · have hs0' : lineLevel s0.trace = s0.irq := by obtain rfl | rfl := hs0 <;> exact hs
    have htaken : lineLevel (s0.takePending p).trace = (s0.takePending p).irq := by
      cases p <;> exact hs0'
    exact receive_keeps_line htaken hdeliver
  · exact hs
  · exact hs
  · exact hs

/-! ### Deferrals in a sound queue -/

/-- A changed write of a level channel defers the contour's recompute, last in the queue. -/
theorem exec_cvw_level {m : BitVec 3} {e : BitVec 5} {d : Byte} {p : Bool} {c : Contour}
    (hs : Inv s) (he : e.toNat < Config.cvChannels) (h : exec (.cvw m e d p) s = .next t)
    (hclass : chanClass s.cfg ⟨e.toNat, he⟩ = .egLevel c) (hchanged : d ≠ s.cvRaw[e.toNat]) :
    t.queue = s.queue ++ [⟨s.now, s.stamp, .egrc c⟩] := by
  have hvolts : voltage d ≠ s.cvVolt[(⟨e.toNat, he⟩ : Fin Config.cvChannels)] :=
    fun hsame => hchanged ((hs.cvStore.voltage_eq_iff _ d).1 hsame)
  cases (exec_cvw_connected s m d p he).symm.trans h
  simp only [State.writeCv_changed s hvolts, State.dispatchCv, State.storeCv_cfg, hclass]
  exact hs.queue.insertEntry_now s.stamp (.egrc c)

/-- Settles O45: each of the three deferrals is an insertion for the present instant. -/
theorem deferralsQueueFirstInFirstOut : Obligations.DeferralsQueueFirstInFirstOut := by
  intro s t hs
  refine ⟨fun c v h => ?egnote, fun v h => ?lfonote, fun c m e d p he h hclass hchanged => ?level⟩
  case egnote =>
    cases h
    exact ⟨hs.queue.insertEntry_now s.stamp (.egrc c), rfl, rfl, rfl⟩
  case lfonote =>
    cases h
    exact ⟨hs.queue.insertEntry_now s.stamp .lforc, rfl, rfl⟩
  case level =>
    refine ⟨exec_cvw_level hs he h hclass hchanged, ?_⟩
    obtain ⟨raw, volt, queue, stamp, calls, rfl, -⟩ := exec_cvw_cases h
    exact ⟨rfl, rfl⟩

end Sys2Proof.Machine

/-! PROOF. The envelope generators (41_envelope.md) and the LFO's rate controller (42_lfo.md): what
a stored current defers, what a recompute computes, and the laws the spec derives of both. -/

namespace Sys2Proof.Machine

variable {s t : State}

/-! ### Stored currents -/

theorem exec_egnote (c : Contour) (v : Amps) (s : State) :
    exec (.egnote c v) s
      = .next (({ s with egCurrent := s.egCurrent.set c v }).scheduleNow (.egrc c)) := rfl

/-- Settles O10: one register of one contour is set, then the recompute is deferred. -/
theorem egnoteStoresCurrentAndDefersRecompute :
    Obligations.EgnoteStoresCurrentAndDefersRecompute := by
  intro s c v
  exact ⟨_, exec_egnote c v s, PerContour.get_set_same _ c v,
    fun c' hne => PerContour.get_set_other _ v hne, deferredNow_scheduleNow s (.egrc c), rfl⟩

/-- Settles O15: the current is set, then the recompute is deferred. -/
theorem lfonoteStoresCurrentAndDefersRecompute :
    Obligations.LfonoteStoresCurrentAndDefersRecompute :=
  fun s _ => ⟨_, rfl, rfl, deferredNow_scheduleNow s .lforc, rfl⟩

/-! ### The recompute of a contour -/

/-- Settles O11: the operation's own guard. -/
theorem egrcSkipsNonPositiveCurrent : Obligations.EgrcSkipsNonPositiveCurrent :=
  fun s _ hcur => execEgrc_skip s hcur

/-- The spec writes `OTA_GM` as 19.2 (41_envelope.md rule R113). -/
theorem egResistance_eq (cfg : Config) (c : Contour) (current : Amps) :
    egResistance cfg c current = 1 / (192 / 10 * current * cfg.egDivMinus.get c) := by
  rw [egResistance, show Config.otaGm = 192 / 10 by norm_num [Config.otaGm]]

/-- Settles O12: the two pushed values are those the push records. -/
theorem egrcPushesResistanceAndTarget : Obligations.EgrcPushesResistanceAndTarget := by
  intro s c hcur
  refine ⟨_, execEgrc_push s hcur, _, _, egResistance_eq s.cfg c _, rfl,
    PerContour.get_set_same _ c _, PerContour.get_set_same _ c _, fun c' hne => ?others, rfl⟩
  case others => exact ⟨PerContour.get_set_other _ _ hne, PerContour.get_set_other _ _ hne⟩

theorem egResistance_mul_current {cfg : Config} (hwf : cfg.wf = true) (c : Contour)
    {current : Amps} (hcur : 0 < current) :
    egResistance cfg c current * current = 1 / (192 / 10 * cfg.egDivMinus.get c) := by
  have hdiv := Config.wf_divider hwf c
  rw [egResistance_eq]
  field_simp

theorem egTargetVoltage_of_sound (hs : CvStoreSound s) (c : Contour) :
    egTargetVoltage s.cfg c (s.levelCv c)
      = ((s.cvRaw[s.cfg.chContourLevel.get c]).toNat : Rat) / 255
          * (10 * s.cfg.egDivPlus.get c / s.cfg.egDivMinus.get c) := by
  have hlevel : s.levelCv c = 10 * ((s.cvRaw[s.cfg.chContourLevel.get c]).toNat : Rat) / 255 :=
    hs _ (s.cfg.chContourLevel.get c).isLt
  rw [egTargetVoltage, hlevel]
  ring

theorem PerContour.set_set {α : Type} (p : PerContour α) (c : Contour) (v : α) :
    (p.set c v).set c v = p.set c v := by cases c <;> rfl

/-- Settles O13: the push leaves the current, so that the second one pushes the same values. -/
theorem egrcResistanceTimesCurrentIsConstant :
    Obligations.EgrcResistanceTimesCurrentIsConstant := by
  intro s c hwf hs hcur
  refine ⟨_, _, execEgrc_push s hcur, PerContour.get_set_same _ c _, egResistance_pos hwf c hcur,
    egResistance_mul_current hwf c hcur, ?target, _, execEgrc_push (s.egPush c _ _) hcur, ?again⟩
  case target =>
    rw [State.egPush_egTarget, PerContour.get_set_same, egTargetVoltage_of_sound hs]
  case again => exact ⟨PerContour.set_set _ c _, PerContour.set_set _ c _⟩

/-! ### Independence of the contours -/

theorem PerContour.set_comm {α : Type} (p : PerContour α) {c c' : Contour} (hne : c' ≠ c)
    (v v' : α) : (p.set c' v').set c v = (p.set c v).set c' v' := by
  cases c with
  | filter =>
    cases c' with
    | filter => exact absurd rfl hne
    | loudness => rfl
  | loudness =>
    cases c' with
    | filter => rfl
    | loudness => exact absurd rfl hne

/-- The state with the registers of a contour replaced (10_state.md rule R12). -/
def State.withContour (s : State) (c : Contour) (x : Amps) (y : Option Ohms) (z : Option Volts) :
    State :=
  { s with egCurrent := s.egCurrent.set c x, egR := s.egR.set c y, egTarget := s.egTarget.set c z }

section
variable {c c' : Contour} (hne : c' ≠ c) (x : Amps) (y : Option Ohms) (z : Option Volts)
include hne

theorem exec_egnote_withContour (v : Amps) (h : exec (.egnote c v) s = .next t) :
    exec (.egnote c v) (s.withContour c' x y z) = .next (t.withContour c' x y z) := by
  cases h
  rw [exec_egnote]
  simp only [State.withContour, PerContour.set_comm _ hne]
  rfl

theorem exec_egrc_withContour (h : exec (.egrc c) s = .next t) :
    exec (.egrc c) (s.withContour c' x y z) = .next (t.withContour c' x y z) := by
  have hkept : (s.withContour c' x y z).egCurrent.get c = s.egCurrent.get c :=
    PerContour.get_set_other _ x hne.symm
  rcases le_or_gt (s.egCurrent.get c) 0 with hcur | hcur
  · cases (execEgrc_skip s hcur).symm.trans h
    exact execEgrc_skip _ (hkept.trans_le hcur)
  · cases (execEgrc_push s hcur).symm.trans h
    refine (execEgrc_push _ (hkept.symm ▸ hcur)).trans ?_
    rw [hkept]
    simp only [State.egPush, State.withContour, PerContour.set_comm _ hne]
    rfl

end

/-- Settles O14: neither operation reads the other contour's registers, and neither writes them. -/
theorem contoursAreIndependent : Obligations.ContoursAreIndependent := by
  intro s t c c' i x y z hne hi h
  obtain rfl | ⟨v, rfl⟩ := hi
  · have hsame := exec_egrc_withContour hne x y z h
    obtain rfl | ⟨r, v, rfl⟩ := exec_egrc_cases h
    · exact ⟨rfl, rfl, rfl, hsame⟩
    · exact ⟨rfl, PerContour.get_set_other _ _ hne, PerContour.get_set_other _ _ hne, hsame⟩
  · have hsame := exec_egnote_withContour hne x y z v h
    cases h
    exact ⟨PerContour.get_set_other _ v hne, rfl, rfl, hsame⟩

/-! ### The recompute of the LFO -/

/-- Settles O16: the fraction is the timer's, in both states of the timer. -/
theorem lforcArmsTimerWithScaledRemainder : Obligations.LforcArmsTimerWithScaledRemainder := by
  intro s hcur
  refine ⟨_, s.timerFraction, rfl, fun hoff => ?disarmed, fun next period stamp hon => ?armed,
    execLforc_arm s hcur⟩
  case disarmed => rw [State.timerFraction, hoff]
  case armed => rw [State.timerFraction, hon]

/-- Settles O17: the operation's own guard. -/
theorem lforcDisarmsTimerWithoutPositiveCurrent :
    Obligations.LforcDisarmsTimerWithoutPositiveCurrent :=
  fun s hcur => execLforc_disarm s hcur

/-- Settles O18: the fraction lies between 0 and 1, and both half-periods are positive. -/
theorem lforcKeepsPhaseContinuity : Obligations.LforcKeepsPhaseContinuity := by
  intro s next period stamp hs hcur hon
  obtain ⟨-, -, hperiod, -, -⟩ := timerSound_iff.1 hs.timer _ _ _ hon
  have hhalf := lfoHalfPeriod_pos hs.config hcur
  obtain ⟨hnonneg, hle⟩ := hs.timerFraction_mem
  have hfraction : s.timerFraction = (next - s.now) / period := by rw [State.timerFraction, hon]
  refine ⟨_, _, _, execLforc_arm s hcur, rfl, rfl,
    le_add_of_nonneg_right (mul_nonneg hhalf.le hnonneg),
    by simpa using mul_le_of_le_one_right hhalf.le hle, ?share, fun hsame => ?unchanged, rfl⟩
  case share => rw [add_sub_cancel_left, mul_div_cancel_left₀ _ hhalf.ne', hfraction]
  case unchanged =>
    rw [hsame, hfraction, mul_div_cancel₀ _ hperiod.ne', add_sub_cancel]

end Sys2Proof.Machine

/-! PROOF. The keyboard and the status byte (43_keyboard.md) and the peak detectors (41_envelope.md
section 4): the mapped signals, the detector in and outside its band, the key scan and the
ladder. -/

namespace Sys2Proof.Machine

/-! ### The status byte -/

/-- Settles O21: the status byte's bits, each with its signal written out. -/
theorem kbdrReturnsMappedSignals : Obligations.KbdrReturnsMappedSignals := by
  intro s p
  refine ⟨_, s.statusByte, rfl, rfl, fun i => ?_⟩
  rw [State.statusByte_getLsbD, Bool.xor_comm]
  cases s.cfg.statusMap[i].signal <;> rfl

/-! ### The peak detectors -/

section
variable {rise fall v vf : Volts}

theorem peakedFrom_above (h : rise < v) : peakedFrom rise fall v vf = true := if_pos h

theorem peakedFrom_below (hband : fall < rise) (h : v < fall) :
    peakedFrom rise fall v vf = false := by
  rw [peakedFrom, if_neg (h.trans hband).not_gt, if_pos h]

/-- In the closed band the falling threshold decides while the voltage falls; otherwise the rising
one does, which the voltage does not exceed there. -/
theorem peakedFrom_inside (hfall : fall ≤ v) (hrise : v ≤ rise) :
    peakedFrom rise fall v vf = decide (vf < v ∧ fall < v) := by
  rw [peakedFrom, if_neg hrise.not_gt, if_neg hfall.not_gt]
  by_cases htrend : vf < v
  · simp [htrend]
  · simp [htrend, hrise.not_gt]

end

/-- Settles O22: of the voltage ahead, the answer inside the band reads the trend alone. -/
theorem peakedOutsideBandIgnoresTrend : Obligations.PeakedOutsideBandIgnoresTrend := by
  intro s c hwf
  have hband := Config.wf_thresholds hwf c
  refine ⟨hband, peakedFrom_above, peakedFrom_below hband, fun v hfall hrise vf vf' htrend => ?_⟩
  simp only [peakedFrom_inside hfall hrise, htrend]

/-- Settles O23: the detector is `peakedFrom` of the two queries, here inside the band. -/
theorem peakedInsideBandFollowsTrend : Obligations.PeakedInsideBandFollowsTrend := by
  intro s c v vf _ hv hvf hfall hrise
  have hpeaked : s.peaked c = peakedFrom (s.cfg.peakVRise.get c) (s.cfg.peakVFall.get c) v vf := by
    rw [hv, hvf]
    rfl
  rw [hpeaked, peakedFrom_inside hfall hrise, decide_eq_true_iff]

/-! ### The key scan -/

/-- The groups as the scan takes them: each width with its reading. -/
def keyGroups (cfg : Config) (keys : Vector Nat Config.kbdGroups) : List (Nat × Nat) :=
  cfg.kbdGroupWidth.toList.zip keys.toList

section
variable {cfg : Config} {keys : Vector Nat Config.kbdGroups} {k : Nat}

theorem keyGroups_length : (keyGroups cfg keys).length = Config.kbdGroups := by
  simp [keyGroups]

theorem keyGroups_widths : (keyGroups cfg keys).map (·.1) = cfg.kbdGroupWidth.toList :=
  List.map_fst_zip (by simp)

/-- A pressed key is a set bit of a group within its width, counted from the groups below. -/
theorem pressed_iff : Pressed cfg keys k ↔
    ∃ g b, ∃ h : g < (keyGroups cfg keys).length, b < ((keyGroups cfg keys)[g]).1
      ∧ ((keyGroups cfg keys)[g]).2.testBit b = true
      ∧ k = 0 + (((keyGroups cfg keys).map (·.1)).take g).sum + b := by
  rw [keyGroups_widths]
  constructor
  · rintro ⟨g, b, hwidth, hbit, rfl⟩
    exact ⟨g, b, keyGroups_length.symm ▸ g.isLt, by simpa [keyGroups] using hwidth,
      by simpa [keyGroups] using hbit, by rw [Nat.zero_add]⟩
  · rintro ⟨g, b, hg, hwidth, hbit, rfl⟩
    exact ⟨⟨g, keyGroups_length ▸ hg⟩, b, by simpa [keyGroups] using hwidth,
      by simpa [keyGroups] using hbit, by rw [Nat.zero_add]⟩

theorem resolvePressedKey_eq_some_iff :
    resolvePressedKey cfg keys = some k ↔ Pressed cfg keys k ∧ ∀ k' < k, ¬ Pressed cfg keys k' := by
  refine ((lowestKey_spec 0 (keyGroups cfg keys)).1 k).trans ⟨?_, ?_⟩
  · rintro ⟨g, b, hg, hwidth, hbit, hk, hlowest⟩
    refine ⟨pressed_iff.2 ⟨g, b, hg, hwidth, hbit, hk⟩, fun k' hlt hpressed => ?_⟩
    obtain ⟨g', b', hg', hwidth', hbit', rfl⟩ := pressed_iff.1 hpressed
    exact (hlowest g' b' hg' hwidth' hbit').not_gt hlt
  · rintro ⟨hpressed, hlowest⟩
    obtain ⟨g, b, hg, hwidth, hbit, hk⟩ := pressed_iff.1 hpressed
    refine ⟨g, b, hg, hwidth, hbit, hk, fun g' b' hg' hwidth' hbit' => not_lt.1 fun hlt => ?_⟩
    exact hlowest _ hlt (pressed_iff.2 ⟨g', b', hg', hwidth', hbit', rfl⟩)

theorem resolvePressedKey_eq_none_iff :
    resolvePressedKey cfg keys = none ↔ ∀ k, ¬ Pressed cfg keys k := by
  refine ((lowestKey_spec 0 (keyGroups cfg keys)).2).trans ⟨fun h k hpressed => ?_, ?_⟩
  · obtain ⟨g, b, hg, hwidth, hbit, -⟩ := pressed_iff.1 hpressed
    exact Bool.false_ne_true ((h g b hg hwidth).symm.trans hbit)
  · exact fun h g b hg hwidth => Bool.not_eq_true _ ▸ fun hbit =>
      h _ (pressed_iff.2 ⟨g, b, hg, hwidth, hbit, rfl⟩)

end

/-- Settles O24: the scan's two answers, in terms of the pressed keys. -/
theorem lowestPressedKeyWins : Obligations.LowestPressedKeyWins :=
  fun _ _ => ⟨fun _ => resolvePressedKey_eq_some_iff, resolvePressedKey_eq_none_iff⟩

/-! ### The ladder -/

/-- The two parts of the ladder make up the whole of it, whichever key is pressed. -/
theorem keyVoltage_eq (cfg : Config) (key : Nat) :
    keyVoltage cfg (some key) = cfg.kbdVref * cfg.kbdDiv2 * (cfg.kbdRA + key * cfg.kbdRKey)
      / (cfg.kbdRA + ((cfg.kbdTotalKeys : Rat) - 1) * cfg.kbdRKey) := by
  have hwhole : cfg.kbdRA + key * cfg.kbdRKey + ((cfg.kbdTotalKeys : Rat) - key - 1) * cfg.kbdRKey
      = cfg.kbdRA + ((cfg.kbdTotalKeys : Rat) - 1) * cfg.kbdRKey := by ring
  simp only [keyVoltage, hwhole]
  ring

/-- Every group has a key, so that the board has one. -/
theorem kbdTotalKeys_pos {cfg : Config} (hwf : cfg.wf = true) : 1 ≤ cfg.kbdTotalKeys := by
  obtain ⟨hwidths, hsum⟩ := Config.wf_widths hwf
  have hgroups := List.length_le_sum_of_one_le _ hwidths
  rw [Vector.length_toList] at hgroups
  exact (show 1 ≤ Config.kbdGroups by decide).trans (hgroups.trans hsum)

/-- Settles O25: the affine form at the top key, and its numerator rising over a fixed ladder. -/
theorem keyVoltageIsAffineInKey : Obligations.KeyVoltageIsAffineInKey := by
  intro cfg hwf
  obtain ⟨hladder, hkey, hdiv⟩ := Config.wf_ladder hwf
  refine ⟨rfl, fun key _ => keyVoltage_eq cfg key, ?top, fun hvref a b hab _ => ?rising⟩
  case top =>
    rw [keyVoltage_eq, Nat.cast_sub (kbdTotalKeys_pos hwf), Nat.cast_one,
      mul_div_cancel_right₀ _ hladder.ne']
  case rising =>
    have hcast : (a : Rat) < b := Nat.cast_lt.2 hab
    rw [keyVoltage_eq, keyVoltage_eq]
    gcongr

end Sys2Proof.Machine

/-! PROOF. The front panel's octave latch and encoder direction (44_panel.md sections 3 and 4), the
displays, the output latches and the battery-backed window (45_dispatcher.md sections 2 to 4). -/

namespace Sys2Proof.Machine

/-! ### The octave latch -/

theorem octSet_iff {cfg : Config} {raw : Byte} : octSet cfg raw = true ↔ raw ∈ cfg.octSetReadings :=
  List.contains_iff_mem

theorem octReset_iff {cfg : Config} {raw : Byte} :
    octReset cfg raw = true ↔ raw ∈ cfg.octResetReadings :=
  List.contains_iff_mem

/-- Both inputs or neither leave the latch (44_panel.md rule R175). -/
theorem octaveNext_same (x before : Bool) : octaveNext x x before = before := by
  cases x <;> rfl

/-- Settles O28: the latch's transition at each combination of the two inputs. -/
theorem octchgFollowsSetAndReset : Obligations.OctchgFollowsSetAndReset := by
  intro s raw
  simp only [← octSet_iff, ← octReset_iff, Bool.not_eq_true, ← Bool.eq_iff_iff]
  refine ⟨_, rfl, fun hset hreset => ?set, fun hset hreset => ?reset, fun hsame => ?same, rfl⟩
  case set =>
    show octaveNext _ _ _ = _
    rw [hset, hreset]
    rfl
  case reset =>
    show octaveNext _ _ _ = _
    rw [hset, hreset]
    rfl
  case same =>
    show octaveNext _ _ _ = _
    rw [hsame, octaveNext_same]

/-! ### The encoder's direction -/

section
variable {o n : EncPos}

theorem encoderDirection_wrapUp (ho : 230 ≤ o.val) (hn : n.val < 10) :
    encoderDirection o n = .inc := if_pos ⟨ho, hn⟩

theorem encoderDirection_wrapDown (ho : o.val < 10) (hn : 230 ≤ n.val) :
    encoderDirection o n = .dec := by
  have hup : ¬ (230 ≤ o.val ∧ n.val < 10) := by omega
  exact (if_neg hup).trans (if_pos ⟨ho, hn⟩)

theorem encoderDirection_plain (hup : ¬ (230 ≤ o.val ∧ n.val < 10))
    (hdown : ¬ (o.val < 10 ∧ 230 ≤ n.val)) :
    encoderDirection o n = if o.val < n.val then .inc else .dec :=
  (if_neg hup).trans (if_neg hdown)

end

/-- Settles O29: the two wraps, and outside them the plain comparison. -/
theorem encmovDerivesDirectionWithWrap : Obligations.EncmovDerivesDirectionWithWrap := by
  intro s o n
  refine ⟨_, exec_encmov o n s, encoderDirection_wrapUp, encoderDirection_wrapDown,
    fun hup hdown => ?plain, rfl⟩
  case plain =>
    simp only [encoderDirection_plain hup hdown]
    split_ifs with hlt
    · exact iff_of_true rfl hlt
    · exact iff_of_false (by simp) hlt

/-! ### The displays -/

theorem lowNibble_toNat (d : Byte) : (lowNibble d).toNat = d.toNat % 16 := by
  simp [lowNibble, BitVec.extractLsb'_toNat]

theorem highNibble_toNat (d : Byte) : (highNibble d).toNat = d.toNat / 16 % 16 := by
  simp [highNibble, BitVec.extractLsb'_toNat, Nat.shiftRight_eq_div_pow]

theorem segmentsOf_of_toNat (cfg : Config) {nibble : BitVec 4} {j : Fin Config.segEntries}
    (h : nibble.toNat = j.val) : segmentsOf cfg nibble = cfg.segTable[j] := by
  obtain ⟨j, hj⟩ := j
  cases h
  rfl

theorem displayCalls_of_digits (cfg : Config) (disp : Display) {d : Byte}
    {lo hi : Fin Config.segEntries} (h : d.toNat = 16 * hi.val + lo.val) :
    displayCalls cfg disp d
      = [.segments disp 0 cfg.segTable[lo], .segments disp 1 cfg.segTable[hi]] := by
  have hlo : lo.val < 16 := lo.isLt
  have hhi : hi.val < 16 := hi.isLt
  have hlow : (lowNibble d).toNat = lo.val := (lowNibble_toNat d).trans (by omega)
  have hhigh : (highNibble d).toNat = hi.val := (highNibble_toNat d).trans (by omega)
  rw [displayCalls, segmentsOf_of_toNat cfg hlow, segmentsOf_of_toNat cfg hhigh]

/-- Settles O32: the two nibbles are the two digits of the byte in base 16. -/
theorem displayWriteDrivesTwoDigits : Obligations.DisplayWriteDrivesTwoDigits := by
  intro s d p lo hi h
  rw [← displayCalls_of_digits s.cfg .edit h, ← displayCalls_of_digits s.cfg .program h]
  exact ⟨rfl, rfl⟩

/-! ### The output latches -/

/-- The calls of a latch write, bit by bit. -/
theorem latchCalls_eq_flatten (bits : Vector OutBit 8) (d : Byte) :
    latchCalls bits d = ((List.finRange 8).map
      (fun (i : Fin 8) => (outBitCall (d.getLsbD i) bits[i]).toList)).flatten := by
  rw [latchCalls, List.filterMap_eq_flatMap_toList, List.flatMap_def]

/-- Settles O33: the latch is one element of a list, and each bit's call is the one its kind
makes. -/
theorem olwStoresByteAndProjectsBits : Obligations.OlwStoresByteAndProjectsBits := by
  intro s k d p
  refine ⟨_, latchCallsAt s.cfg k d, rfl, rfl, List.length_set, fun hk => ?stored,
    fun j hne => List.getElem?_set_ne hne.symm, fun hnone => ?missing, fun bits hbits => ?calls⟩
  case stored => exact List.getElem?_set_self hk
  case missing => rw [latchCallsAt, hnone]
  case calls =>
    rw [latchCallsAt, hbits]
    refine (latchCalls_eq_flatten bits d).trans ?_
    congr 2
    funext i
    cases bits[i] <;> rfl

/-! ### The battery-backed window -/

/-- Settles O34: the memory's laws at the offset written and at every other. -/
theorem nvramWindowIsForwarded : Obligations.NvramWindowIsForwarded := by
  intro s off d p
  refine ⟨⟨_, rfl, fun hwf => ?own, fun off' hne => Memory.read_write_other d hne, rfl⟩, rfl⟩
  case own => exact ⟨Memory.read_write_same off d hwf, Memory.write_wf off d hwf⟩

end Sys2Proof.Machine
